-- ==== Sys2Proof/Word.lean ====
section
/-! DEFINITION. The word types of the iAPX 186 and its two operand widths (R8, R11, R13, R14).
Only types stand here; the bit-field and byte-order helpers are in `Decode.lean`. -/

namespace Sys2Proof

/-- "Byte" is 8 bits (R13). -/
abbrev Byte := BitVec 8

/-- "word" is 16 bits (R13): a register, an offset, a segment base, a port address. -/
abbrev Word := BitVec 16

/-- A physical memory address, 20 bits (R8, R40). -/
abbrev Addr := BitVec 20

/-- The operand width a `w` bit selects (R13, R174). -/
inductive Width where
  /-- w = 0 -/
  | byte
  /-- w = 1 -/
  | word
  deriving DecidableEq, Repr

/-- `W` of R13. -/
abbrev Width.bits : Width → Nat
  | .byte => 8
  | .word => 16

end Sys2Proof
end

