-- ==== Sys2Proof/Config.lean ====
section
/-! DEFINITION. What the source leaves open (R10): the parameters that have a value of the spec's own,
each a named definition, and the free values, each an opaque constant with no body, so that nothing
can be proved about which value it is (R16, U5). -/

namespace Sys2Proof

/-! ### Free values -/

/-- `undefined(X)` of R16 for one flag or bit: the n-th free bit drawn. -/
opaque Config.freeBit : Nat → Bool

/-- An unspecified 16-bit register read (U8, U11, U13): the n-th free word drawn. -/
opaque Config.freeWord : Nat → Word

/-- The byte an external device answers on an I/O read of a port for which the host has set no data
(`IO_MAP`, D3): the arguments are the draw number and the port. -/
opaque Config.deviceByte : Nat → Word → Byte

/-- The byte a device in memory space answers where the host has set no data (`MEMORY_MAP`, D3): the arguments are
the draw number and the address. -/
opaque Config.memDeviceByte : Nat → Addr → Byte

/-- `QUEUE_DEPTH` (R10, D7): open, any number. -/
opaque Config.queueDepth : Nat

/-- Whether the fetch of a byte that was overwritten while it may have been queued sees the old byte
(R162): draw number and position among the overwritten bytes. -/
opaque Config.seesStale : Nat → Nat → Bool

/-! ### Parameters with a value of the spec's own -/

/-- `SHIFT_COUNT_MASK` (R334, D12). -/
def Config.shiftCountMask : Byte := 0x1F#8

/-- What a 16-bit data access at offset FFFFH touches (R142, D5). -/
inductive WordAtFFFF where
  /-- the access is refused: the spec's value -/
  | refuse
  /-- the second byte is at offset 0000H of the same segment -/
  | wrap
  /-- the second byte is at the next physical address -/
  | onward
  deriving DecidableEq, Repr

/-- `WORD_AT_FFFF` (R10, D5). -/
def Config.wordAtFFFF : WordAtFFFF := .refuse

/-- `EQUAL_LEVEL_NESTING` (R493 condition 6, D29): true = a source of the same programmed level as one
in service is held off, the spec's value. -/
def Config.equalLevelBlocked : Bool := true

/-- `IRMX_EQUAL_LEVEL` (R523, D32): true = an in-service level masks a new request of the same level.
The spec's value is false. -/
def Config.irmxEqualMasked : Bool := false

/-- The classes of unlisted encodings, U-a to U-o of R190. -/
inductive Unlisted where
  /-- first byte 0FH -/
  | ua
  /-- first byte 63H to 67H -/
  | ub
  /-- first byte D6H -/
  | uc
  /-- first byte F1H -/
  | ud
  /-- 82H, 83H with reg = 001, 100, 110 -/
  | ue
  /-- 8FH with reg ≠ 000 -/
  | uf
  /-- C6H, C7H with reg ≠ 000 -/
  | ug
  /-- the shift group with reg = 110 -/
  | uh
  /-- F6H, F7H with reg = 001 -/
  | ui
  /-- FEH with reg = 010 to 111 -/
  | uj
  /-- FFH with reg = 111 -/
  | uk
  /-- FFH with reg = 011 or 101 and mod = 11; C4H, C5H with mod = 11 -/
  | ul
  /-- 8DH and 62H with mod = 11 -/
  | um
  /-- 8CH, 8EH with bit 5 of the second byte = 1 -/
  | un
  /-- D4H, D5H with a second byte other than 0AH -/
  | uo
  deriving DecidableEq, Repr

/-- `UNDEFINED_OPCODE_SET` (R190, D9): whether the class raises the unused-opcode exception. The
spec's choice is all of U-a to U-o. -/
def Config.raisesUnusedOpcode : Unlisted → Bool
  | _ => true

end Sys2Proof
end

