-- ==== Sys2Proof/Syntax.lean ====
section
/-! DEFINITION. The instructions of the iAPX 186: operand shapes (R174 to R179) and `Instr`, one
constructor per row of `spec/opcode_table.json`, in the table's order. A prefix byte is a
constructor of its own (R172; log 9). -/

namespace Sys2Proof

/-- The REG field (R175, R21, R22): the register it names has 16 bits when w = 1 and 8 bits when
w = 0; each constructor is named after both. -/
inductive Reg where
  | ax_al
  | cx_cl
  | dx_dl
  | bx_bl
  | sp_ah
  | bp_ch
  | si_dh
  | di_bh
  deriving DecidableEq, Repr

/-- The segment registers, in the order of their 2-bit numbers (R25). -/
inductive SegReg where
  | es
  | cs
  | ss
  | ds
  deriving DecidableEq, Repr

/-- The base and index registers an r/m field names, in its order (R176). -/
inductive Base where
  | bxSi
  | bxDi
  | bpSi
  | bpDi
  | si
  | di
  | bp
  | bx
  deriving DecidableEq, Repr

/-- A memory operand as `mod`, `r/m` and the displacement encode it (R176). -/
inductive MemRef where
  /-- mod = 00, r/m ≠ 110 -/
  | plain (base : Base)
  /-- mod = 00, r/m = 110 -/
  | direct (disp : Word)
  /-- mod = 01 -/
  | disp8 (base : Base) (disp : Byte)
  /-- mod = 10 -/
  | disp16 (base : Base) (disp : Word)
  deriving DecidableEq, Repr

/-- The r/m operand (R175): a register when mod = 11, else memory. -/
inductive RM where
  | reg (r : Reg)
  | mem (m : MemRef)
  deriving DecidableEq, Repr

/-- The d bit (R180): which of r/m and REG is written. -/
inductive Dir where
  /-- d = 0: r/m is the destination -/
  | toRm
  /-- d = 1: REG is the destination -/
  | toReg
  deriving DecidableEq, Repr

/-- Immediate data `data [data if w = 1]` (R179); its width is the operand's. -/
inductive Imm where
  | byte (v : Byte)
  | word (v : Word)
  deriving DecidableEq, Repr

/-- The operand width an immediate of `data [data if w = 1]` belongs to. -/
abbrev Imm.width : Imm → Width
  | .byte _ => .byte
  | .word _ => .word

/-- The immediate as a value of its width. -/
abbrev Imm.value : (i : Imm) → BitVec i.width.bits
  | .byte v => v
  | .word v => v

/-- The instructions, one constructor per row of `spec/opcode_table.json`. -/
inductive Instr where
  /-- MOV r/m, reg (88H, 89H; R220) -/
  | movRmReg (w : Width) (rm : RM) (reg : Reg)
  /-- MOV reg, r/m (8AH, 8BH; R221) -/
  | movRegRm (w : Width) (reg : Reg) (rm : RM)
  /-- MOV r/m, imm (C6H, C7H /0; R222) -/
  | movRmImm (rm : RM) (imm : Imm)
  /-- MOV reg8, imm8 (B0H to B7H; R223) -/
  | movReg8Imm (reg : Reg) (imm : Byte)
  /-- MOV reg16, imm16 (B8H to BFH; R223) -/
  | movReg16Imm (reg : Reg) (imm : Word)
  /-- MOV acc, [addr] (A0H, A1H; R224) -/
  | movAccMem (w : Width) (addr : Word)
  /-- MOV [addr], acc (A2H, A3H; R225) -/
  | movMemAcc (w : Width) (addr : Word)
  /-- MOV sreg, r/m16 (8EH; R226) -/
  | movSregRm (sreg : SegReg) (rm : RM)
  /-- MOV r/m16, sreg (8CH; R227) -/
  | movRmSreg (rm : RM) (sreg : SegReg)
  /-- PUSH r/m16 (FFH /6; R229) -/
  | pushRm (rm : RM)
  /-- PUSH reg16 (50H to 57H; R230) -/
  | pushReg (reg : Reg)
  /-- PUSH ES (06H; R231) -/
  | pushEs
  /-- PUSH CS (0EH; R231) -/
  | pushCs
  /-- PUSH SS (16H; R231) -/
  | pushSs
  /-- PUSH DS (1EH; R231) -/
  | pushDs
  /-- PUSH imm16 (68H; R232) -/
  | pushImm16 (imm : Word)
  /-- PUSH imm8, sign-extended (6AH; R232) -/
  | pushImm8 (imm : Byte)
  /-- PUSHA (60H; R238) -/
  | pusha
  /-- POP r/m16 (8FH /0; R234) -/
  | popRm (rm : RM)
  /-- POP reg16 (58H to 5FH; R235) -/
  | popReg (reg : Reg)
  /-- POP ES (07H; R236) -/
  | popEs
  /-- POP SS (17H; R236) -/
  | popSs
  /-- POP DS (1FH; R236) -/
  | popDs
  /-- POPA (61H; R239) -/
  | popa
  /-- XCHG r/m, reg (86H, 87H; R240) -/
  | xchgRmReg (w : Width) (rm : RM) (reg : Reg)
  /-- NOP (90H; R443) -/
  | nop
  /-- XCHG AX, reg16 (91H to 97H; R241) -/
  | xchgAxReg (reg : Reg)
  /-- IN acc, port8 (E4H, E5H; R242) -/
  | inAccPort (w : Width) (port : Byte)
  /-- IN acc, DX (ECH, EDH; R242) -/
  | inAccDx (w : Width)
  /-- OUT port8, acc (E6H, E7H; R243) -/
  | outPortAcc (w : Width) (port : Byte)
  /-- OUT DX, acc (EEH, EFH; R243) -/
  | outDxAcc (w : Width)
  /-- XLAT (D7H; R245) -/
  | xlat
  /-- LEA reg16, mem (8DH; R246) -/
  | lea (reg : Reg) (mem : MemRef)
  /-- LDS reg16, mem (C5H; R247) -/
  | lds (reg : Reg) (mem : MemRef)
  /-- LES reg16, mem (C4H; R248) -/
  | les (reg : Reg) (mem : MemRef)
  /-- LAHF (9FH; R249) -/
  | lahf
  /-- SAHF (9EH; R250) -/
  | sahf
  /-- PUSHF (9CH; R251) -/
  | pushf
  /-- POPF (9DH; R252) -/
  | popf
  /-- ADD r/m, reg and ADD reg, r/m (00H on, d w; R270) -/
  | addRmReg (d : Dir) (w : Width) (rm : RM) (reg : Reg)
  /-- ADD r/m, imm (80H, 81H /0; R271) -/
  | addRmImm (rm : RM) (imm : Imm)
  /-- ADD r/m8, imm8, the s = 1 duplicate (82H /0; R271) -/
  | addRm8Imm8 (rm : RM) (imm : Byte)
  /-- ADD r/m16, imm8 sign-extended (83H /0; R271) -/
  | addRm16Imm8 (rm : RM) (imm : Byte)
  /-- ADD acc, imm (R272) -/
  | addAccImm (imm : Imm)
  /-- ADC r/m, reg and ADC reg, r/m (10H on, d w; R273) -/
  | adcRmReg (d : Dir) (w : Width) (rm : RM) (reg : Reg)
  /-- ADC r/m, imm (80H, 81H /2; R274) -/
  | adcRmImm (rm : RM) (imm : Imm)
  /-- ADC r/m8, imm8, the s = 1 duplicate (82H /2; R274) -/
  | adcRm8Imm8 (rm : RM) (imm : Byte)
  /-- ADC r/m16, imm8 sign-extended (83H /2; R274) -/
  | adcRm16Imm8 (rm : RM) (imm : Byte)
  /-- ADC acc, imm (R275) -/
  | adcAccImm (imm : Imm)
  /-- SUB r/m, reg and SUB reg, r/m (28H on, d w; R279) -/
  | subRmReg (d : Dir) (w : Width) (rm : RM) (reg : Reg)
  /-- SUB r/m, imm (80H, 81H /5; R280) -/
  | subRmImm (rm : RM) (imm : Imm)
  /-- SUB r/m8, imm8, the s = 1 duplicate (82H /5; R280) -/
  | subRm8Imm8 (rm : RM) (imm : Byte)
  /-- SUB r/m16, imm8 sign-extended (83H /5; R280) -/
  | subRm16Imm8 (rm : RM) (imm : Byte)
  /-- SUB acc, imm (R281) -/
  | subAccImm (imm : Imm)
  /-- SBB r/m, reg and SBB reg, r/m (18H on, d w; R282) -/
  | sbbRmReg (d : Dir) (w : Width) (rm : RM) (reg : Reg)
  /-- SBB r/m, imm (80H, 81H /3; R283) -/
  | sbbRmImm (rm : RM) (imm : Imm)
  /-- SBB r/m8, imm8, the s = 1 duplicate (82H /3; R283) -/
  | sbbRm8Imm8 (rm : RM) (imm : Byte)
  /-- SBB r/m16, imm8 sign-extended (83H /3; R283) -/
  | sbbRm16Imm8 (rm : RM) (imm : Byte)
  /-- SBB acc, imm (R284) -/
  | sbbAccImm (imm : Imm)
  /-- CMP r/m, reg and CMP reg, r/m (38H on, d w; R295) -/
  | cmpRmReg (d : Dir) (w : Width) (rm : RM) (reg : Reg)
  /-- CMP r/m, imm (80H, 81H /7; R296) -/
  | cmpRmImm (rm : RM) (imm : Imm)
  /-- CMP r/m8, imm8, the s = 1 duplicate (82H /7; R296) -/
  | cmpRm8Imm8 (rm : RM) (imm : Byte)
  /-- CMP r/m16, imm8 sign-extended (83H /7; R296) -/
  | cmpRm16Imm8 (rm : RM) (imm : Byte)
  /-- CMP acc, imm (R297) -/
  | cmpAccImm (imm : Imm)
  /-- AND r/m, reg and AND reg, r/m (20H on, d w; R320) -/
  | andRmReg (d : Dir) (w : Width) (rm : RM) (reg : Reg)
  /-- AND r/m, imm (80H, 81H /4; R321) -/
  | andRmImm (rm : RM) (imm : Imm)
  /-- AND acc, imm (R322) -/
  | andAccImm (imm : Imm)
  /-- OR r/m, reg and OR reg, r/m (08H on, d w; R323) -/
  | orRmReg (d : Dir) (w : Width) (rm : RM) (reg : Reg)
  /-- OR r/m, imm (80H, 81H /1; R324) -/
  | orRmImm (rm : RM) (imm : Imm)
  /-- OR acc, imm (R325) -/
  | orAccImm (imm : Imm)
  /-- XOR r/m, reg and XOR reg, r/m (30H on, d w; R326) -/
  | xorRmReg (d : Dir) (w : Width) (rm : RM) (reg : Reg)
  /-- XOR r/m, imm (80H, 81H /6; R327) -/
  | xorRmImm (rm : RM) (imm : Imm)
  /-- XOR acc, imm (R328) -/
  | xorAccImm (imm : Imm)
  /-- INC r/m (FEH, FFH /0; R276) -/
  | incRm (w : Width) (rm : RM)
  /-- INC reg16 (40H to 47H; R277) -/
  | incReg (reg : Reg)
  /-- DEC r/m (FEH, FFH /1; R285) -/
  | decRm (w : Width) (rm : RM)
  /-- DEC reg16 (48H to 4FH; R286) -/
  | decReg (reg : Reg)
  /-- TEST r/m, imm (F6H, F7H /0; R330) -/
  | testRmImm (rm : RM) (imm : Imm)
  /-- NOT r/m (F6H, F7H /2; R332) -/
  | notRm (w : Width) (rm : RM)
  /-- NEG r/m (F6H, F7H /3; R287) -/
  | negRm (w : Width) (rm : RM)
  /-- MUL r/m (F6H, F7H /4; R288) -/
  | mulRm (w : Width) (rm : RM)
  /-- IMUL r/m (F6H, F7H /5; R289) -/
  | imulRm (w : Width) (rm : RM)
  /-- DIV r/m (F6H, F7H /6; R292) -/
  | divRm (w : Width) (rm : RM)
  /-- IDIV r/m (F6H, F7H /7; R293) -/
  | idivRm (w : Width) (rm : RM)
  /-- IMUL reg16, r/m16, imm16 (69H; R291) -/
  | imulRegRmImm16 (reg : Reg) (rm : RM) (imm : Word)
  /-- IMUL reg16, r/m16, imm8 sign-extended (6BH; R291) -/
  | imulRegRmImm8 (reg : Reg) (rm : RM) (imm : Byte)
  /-- AAA (37H; R303) -/
  | aaa
  /-- AAS (3FH; R304) -/
  | aas
  /-- DAA (27H; R305) -/
  | daa
  /-- DAS (2FH; R306) -/
  | das
  /-- AAM (D4H 0AH; R309) -/
  | aam
  /-- AAD (D5H 0AH; R310) -/
  | aad
  /-- CBW (98H; R307) -/
  | cbw
  /-- CWD (99H; R308) -/
  | cwd
  /-- TEST r/m, reg (84H, 85H; R329) -/
  | testRmReg (w : Width) (rm : RM) (reg : Reg)
  /-- TEST acc, imm (A8H, A9H; R331) -/
  | testAccImm (imm : Imm)
  /-- ROL r/m, 1 (D0H, D1H /0; R335, R342) -/
  | rolRm1 (w : Width) (rm : RM)
  /-- ROL r/m, CL (D2H, D3H /0; R335, R342) -/
  | rolRmCl (w : Width) (rm : RM)
  /-- ROL r/m, count (C0H, C1H /0; R335, R342) -/
  | rolRmImm (w : Width) (rm : RM) (count : Byte)
  /-- ROR r/m, 1 (D0H, D1H /1; R336, R342) -/
  | rorRm1 (w : Width) (rm : RM)
  /-- ROR r/m, CL (D2H, D3H /1; R336, R342) -/
  | rorRmCl (w : Width) (rm : RM)
  /-- ROR r/m, count (C0H, C1H /1; R336, R342) -/
  | rorRmImm (w : Width) (rm : RM) (count : Byte)
  /-- RCL r/m, 1 (D0H, D1H /2; R337, R342) -/
  | rclRm1 (w : Width) (rm : RM)
  /-- RCL r/m, CL (D2H, D3H /2; R337, R342) -/
  | rclRmCl (w : Width) (rm : RM)
  /-- RCL r/m, count (C0H, C1H /2; R337, R342) -/
  | rclRmImm (w : Width) (rm : RM) (count : Byte)
  /-- RCR r/m, 1 (D0H, D1H /3; R338, R342) -/
  | rcrRm1 (w : Width) (rm : RM)
  /-- RCR r/m, CL (D2H, D3H /3; R338, R342) -/
  | rcrRmCl (w : Width) (rm : RM)
  /-- RCR r/m, count (C0H, C1H /3; R338, R342) -/
  | rcrRmImm (w : Width) (rm : RM) (count : Byte)
  /-- SHL_SAL r/m, 1 (D0H, D1H /4; R339, R342) -/
  | shlRm1 (w : Width) (rm : RM)
  /-- SHL_SAL r/m, CL (D2H, D3H /4; R339, R342) -/
  | shlRmCl (w : Width) (rm : RM)
  /-- SHL_SAL r/m, count (C0H, C1H /4; R339, R342) -/
  | shlRmImm (w : Width) (rm : RM) (count : Byte)
  /-- SHR r/m, 1 (D0H, D1H /5; R340, R342) -/
  | shrRm1 (w : Width) (rm : RM)
  /-- SHR r/m, CL (D2H, D3H /5; R340, R342) -/
  | shrRmCl (w : Width) (rm : RM)
  /-- SHR r/m, count (C0H, C1H /5; R340, R342) -/
  | shrRmImm (w : Width) (rm : RM) (count : Byte)
  /-- SAR r/m, 1 (D0H, D1H /7; R341, R342) -/
  | sarRm1 (w : Width) (rm : RM)
  /-- SAR r/m, CL (D2H, D3H /7; R341, R342) -/
  | sarRmCl (w : Width) (rm : RM)
  /-- SAR r/m, count (C0H, C1H /7; R341, R342) -/
  | sarRmImm (w : Width) (rm : RM) (count : Byte)
  /-- MOVS (A4H, A5H; R351) -/
  | movs (w : Width)
  /-- CMPS (A6H, A7H; R352) -/
  | cmps (w : Width)
  /-- SCAS (AEH, AFH; R353) -/
  | scas (w : Width)
  /-- LODS (ACH, ADH; R354) -/
  | lods (w : Width)
  /-- STOS (AAH, ABH; R355) -/
  | stos (w : Width)
  /-- INS (6CH, 6DH; R356) -/
  | ins (w : Width)
  /-- OUTS (6EH, 6FH; R357) -/
  | outs (w : Width)
  /-- REPNE/REPNZ (F2H, z = 0), REP/REPE/REPZ (F3H, z = 1) (R360) -/
  | rep (z : Bool)
  /-- CALL near direct (E8H; R370) -/
  | callNear (disp : Word)
  /-- CALL near indirect (FFH /2; R371) -/
  | callNearRm (rm : RM)
  /-- CALL far direct (9AH; R372) -/
  | callFar (off : Word) (seg : Word)
  /-- CALL far indirect (FFH /3; R373) -/
  | callFarMem (mem : MemRef)
  /-- JMP short (EBH; R375) -/
  | jmpShort (disp : Byte)
  /-- JMP near direct (E9H; R376) -/
  | jmpNear (disp : Word)
  /-- JMP near indirect (FFH /4; R377) -/
  | jmpNearRm (rm : RM)
  /-- JMP far direct (EAH; R378) -/
  | jmpFar (off : Word) (seg : Word)
  /-- JMP far indirect (FFH /5; R379) -/
  | jmpFarMem (mem : MemRef)
  /-- RET near (C3H; R380) -/
  | retNear
  /-- RET near imm16 (C2H; R381) -/
  | retNearImm (k : Word)
  /-- RET far (CBH; R382) -/
  | retFar
  /-- RET far imm16 (CAH; R383) -/
  | retFarImm (k : Word)
  /-- JO (70H; R400, R385) -/
  | jo (disp : Byte)
  /-- JNO (71H; R401, R385) -/
  | jno (disp : Byte)
  /-- JB/JNAE (72H; R402, R385) -/
  | jb (disp : Byte)
  /-- JNB/JAE (73H; R403, R385) -/
  | jnb (disp : Byte)
  /-- JE/JZ (74H; R404, R385) -/
  | je (disp : Byte)
  /-- JNE/JNZ (75H; R405, R385) -/
  | jne (disp : Byte)
  /-- JBE/JNA (76H; R406, R385) -/
  | jbe (disp : Byte)
  /-- JNBE/JA (77H; R407, R385) -/
  | jnbe (disp : Byte)
  /-- JS (78H; R408, R385) -/
  | js (disp : Byte)
  /-- JNS (79H; R409, R385) -/
  | jns (disp : Byte)
  /-- JP/JPE (7AH; R410, R385) -/
  | jp (disp : Byte)
  /-- JNP/JPO (7BH; R411, R385) -/
  | jnp (disp : Byte)
  /-- JL/JNGE (7CH; R412, R385) -/
  | jl (disp : Byte)
  /-- JNL/JGE (7DH; R413, R385) -/
  | jnl (disp : Byte)
  /-- JLE/JNG (7EH; R414, R385) -/
  | jle (disp : Byte)
  /-- JNLE/JG (7FH; R415, R385) -/
  | jnle (disp : Byte)
  /-- LOOP (E2H; R387) -/
  | loop (disp : Byte)
  /-- LOOPZ/LOOPE (E1H; R388) -/
  | loopz (disp : Byte)
  /-- LOOPNZ/LOOPNE (E0H; R389) -/
  | loopnz (disp : Byte)
  /-- JCXZ (E3H; R390) -/
  | jcxz (disp : Byte)
  /-- INT type (CDH; R394) -/
  | intType (type : Byte)
  /-- INT 3 (CCH; R395) -/
  | int3
  /-- INTO (CEH; R396) -/
  | into
  /-- IRET (CFH; R397) -/
  | iret
  /-- ENTER imm16, imm8 (C8H; R420) -/
  | enter (size : Word) (level : Byte)
  /-- LEAVE (C9H; R422) -/
  | leave
  /-- BOUND reg16, mem (62H; R424) -/
  | bound (reg : Reg) (mem : MemRef)
  /-- CLC (F8H; R430) -/
  | clc
  /-- STC (F9H; R431) -/
  | stc
  /-- CMC (F5H; R432) -/
  | cmc
  /-- CLD (FCH; R433) -/
  | cld
  /-- STD (FDH; R434) -/
  | std
  /-- CLI (FAH; R435) -/
  | cli
  /-- STI (FBH; R436) -/
  | sti
  /-- HLT (F4H; R440) -/
  | hlt
  /-- WAIT (9BH; R441) -/
  | wait
  /-- LOCK (F0H; R444) -/
  | lock
  /-- ESC (D8H to DFH; R445) -/
  | esc (ttt : BitVec 3) (lll : BitVec 3) (rm : RM)
  /-- ES: segment override (26H; R172, R178) -/
  | segEs
  /-- CS: segment override (2EH; R172, R178) -/
  | segCs
  /-- SS: segment override (36H; R172, R178) -/
  | segSs
  /-- DS: segment override (3EH; R172, R178) -/
  | segDs
  deriving DecidableEq, Repr

end Sys2Proof
end

