-- ==== Sys2Proof/WellFormed.lean ====
section
/-! DEFINITION. The well-formed instructions: those some encoding stands for. Three terms of `Instr`
have none: a `plain` BP base (mod = 00, r/m = 110 is the direct form, R176), `MOV CS, r/m` (R191) and
`XCHG AX, AX`, whose byte 90H is NOP (R185, R199). -/

namespace Sys2Proof

/-- mod = 00 with r/m = 110 is the direct form, so no plain BP operand exists (R176). -/
def MemRef.wf : MemRef → Bool
  | .plain .bp => false
  | _ => true

/-- A register operand always has an encoding; a memory operand as `MemRef.wf` says. -/
def RM.wf : RM → Bool
  | .reg _ => true
  | .mem m => m.wf

/-- Every r/m operand of the instruction has an encoding; a MOV to a segment register does not name CS
(R191); XCHG AX names another register than AX (R199). -/
def Instr.wf : Instr → Bool
  | .movSregRm sreg rm => decide (sreg ≠ .cs) && rm.wf
  | .xchgAxReg reg => decide (reg ≠ .ax_al)
  | .movRmReg _ rm _ => rm.wf
  | .movRegRm _ _ rm => rm.wf
  | .movRmImm rm _ => rm.wf
  | .movRmSreg rm _ => rm.wf
  | .pushRm rm => rm.wf
  | .popRm rm => rm.wf
  | .xchgRmReg _ rm _ => rm.wf
  | .lea _ mem => mem.wf
  | .lds _ mem => mem.wf
  | .les _ mem => mem.wf
  | .addRmReg _ _ rm _ => rm.wf
  | .addRmImm rm _ => rm.wf
  | .addRm8Imm8 rm _ => rm.wf
  | .addRm16Imm8 rm _ => rm.wf
  | .adcRmReg _ _ rm _ => rm.wf
  | .adcRmImm rm _ => rm.wf
  | .adcRm8Imm8 rm _ => rm.wf
  | .adcRm16Imm8 rm _ => rm.wf
  | .subRmReg _ _ rm _ => rm.wf
  | .subRmImm rm _ => rm.wf
  | .subRm8Imm8 rm _ => rm.wf
  | .subRm16Imm8 rm _ => rm.wf
  | .sbbRmReg _ _ rm _ => rm.wf
  | .sbbRmImm rm _ => rm.wf
  | .sbbRm8Imm8 rm _ => rm.wf
  | .sbbRm16Imm8 rm _ => rm.wf
  | .cmpRmReg _ _ rm _ => rm.wf
  | .cmpRmImm rm _ => rm.wf
  | .cmpRm8Imm8 rm _ => rm.wf
  | .cmpRm16Imm8 rm _ => rm.wf
  | .andRmReg _ _ rm _ => rm.wf
  | .andRmImm rm _ => rm.wf
  | .orRmReg _ _ rm _ => rm.wf
  | .orRmImm rm _ => rm.wf
  | .xorRmReg _ _ rm _ => rm.wf
  | .xorRmImm rm _ => rm.wf
  | .incRm _ rm => rm.wf
  | .decRm _ rm => rm.wf
  | .testRmImm rm _ => rm.wf
  | .notRm _ rm => rm.wf
  | .negRm _ rm => rm.wf
  | .mulRm _ rm => rm.wf
  | .imulRm _ rm => rm.wf
  | .divRm _ rm => rm.wf
  | .idivRm _ rm => rm.wf
  | .imulRegRmImm16 _ rm _ => rm.wf
  | .imulRegRmImm8 _ rm _ => rm.wf
  | .testRmReg _ rm _ => rm.wf
  | .rolRm1 _ rm => rm.wf
  | .rolRmCl _ rm => rm.wf
  | .rolRmImm _ rm _ => rm.wf
  | .rorRm1 _ rm => rm.wf
  | .rorRmCl _ rm => rm.wf
  | .rorRmImm _ rm _ => rm.wf
  | .rclRm1 _ rm => rm.wf
  | .rclRmCl _ rm => rm.wf
  | .rclRmImm _ rm _ => rm.wf
  | .rcrRm1 _ rm => rm.wf
  | .rcrRmCl _ rm => rm.wf
  | .rcrRmImm _ rm _ => rm.wf
  | .shlRm1 _ rm => rm.wf
  | .shlRmCl _ rm => rm.wf
  | .shlRmImm _ rm _ => rm.wf
  | .shrRm1 _ rm => rm.wf
  | .shrRmCl _ rm => rm.wf
  | .shrRmImm _ rm _ => rm.wf
  | .sarRm1 _ rm => rm.wf
  | .sarRmCl _ rm => rm.wf
  | .sarRmImm _ rm _ => rm.wf
  | .callNearRm rm => rm.wf
  | .callFarMem mem => mem.wf
  | .jmpNearRm rm => rm.wf
  | .jmpFarMem mem => mem.wf
  | .bound _ mem => mem.wf
  | .esc _ _ rm => rm.wf
  | _ => true

end Sys2Proof
end

