-- ==== Sys2Proof/Decode.lean ====
section
/-! DEFINITION. The decoder and the encoder, both written from the opcode map (R182), the group table
(R183) and the field rules (R174 to R179). Decoding is total on any bytes: it gives an instruction with
its length, an unlisted encoding with the bytes needed to recognise it (R190), or a refusal by name.
Prefix bytes are instructions of one byte (R172). -/

namespace Sys2Proof

/-! ### Fields -/

/-- The REG table (R175). -/
def Reg.ofBits (b : BitVec 3) : Reg :=
  match b.getLsbD 2, b.getLsbD 1, b.getLsbD 0 with
  | false, false, false => .ax_al
  | false, false, true => .cx_cl
  | false, true, false => .dx_dl
  | false, true, true => .bx_bl
  | true, false, false => .sp_ah
  | true, false, true => .bp_ch
  | true, true, false => .si_dh
  | true, true, true => .di_bh

/-- The number of a register in the REG table (R175). -/
def Reg.bits : Reg → BitVec 3
  | .ax_al => 0b000#3
  | .cx_cl => 0b001#3
  | .dx_dl => 0b010#3
  | .bx_bl => 0b011#3
  | .sp_ah => 0b100#3
  | .bp_ch => 0b101#3
  | .si_dh => 0b110#3
  | .di_bh => 0b111#3

/-- The segment table: 00 ES, 01 CS, 10 SS, 11 DS (R25, R174). -/
def SegReg.ofBits (hi lo : Bool) : SegReg :=
  match hi, lo with
  | false, false => .es
  | false, true => .cs
  | true, false => .ss
  | true, true => .ds

/-- The number of a segment register, as the 3-bit field `0 reg` of MOV (R226). -/
def SegReg.bits : SegReg → BitVec 3
  | .es => 0b000#3
  | .cs => 0b001#3
  | .ss => 0b010#3
  | .ds => 0b011#3

/-- The r/m table (R176). -/
def Base.ofBits (b : BitVec 3) : Base :=
  match b.getLsbD 2, b.getLsbD 1, b.getLsbD 0 with
  | false, false, false => .bxSi
  | false, false, true => .bxDi
  | false, true, false => .bpSi
  | false, true, true => .bpDi
  | true, false, false => .si
  | true, false, true => .di
  | true, true, false => .bp
  | true, true, true => .bx

/-- The r/m value of a base (R176). -/
def Base.bits : Base → BitVec 3
  | .bxSi => 0b000#3
  | .bxDi => 0b001#3
  | .bpSi => 0b010#3
  | .bpDi => 0b011#3
  | .si => 0b100#3
  | .di => 0b101#3
  | .bp => 0b110#3
  | .bx => 0b111#3

/-- The w bit (R174). -/
def Width.ofBit (w : Bool) : Width := if w then .word else .byte

/-- The w bit of a width. -/
def Width.bit : Width → Bool
  | .byte => false
  | .word => true

/-- The d bit (R180). -/
def Dir.ofBit (d : Bool) : Dir := if d then .toReg else .toRm

/-- The d bit of a direction. -/
def Dir.bit : Dir → Bool
  | .toRm => false
  | .toReg => true

/-- A 16-bit field of the instruction stream, low byte first (R136, R171). -/
def wordOfBytes (lo hi : Byte) : Word := hi ++ lo

/-- The low byte of a 16-bit field. -/
def Word.low (v : Word) : Byte := v.extractLsb' 0 8

/-- The high byte of a 16-bit field. -/
def Word.high (v : Word) : Byte := v.extractLsb' 8 8

/-! ### Decoding -/

/-- What decoding some bytes gives. -/
inductive Decoded where
  /-- an instruction and its length in bytes -/
  | instr (i : Instr) (length : Nat)
  /-- an unlisted encoding and the bytes fetched to recognise it (R190, R466) -/
  | unlisted (c : Unlisted) (length : Nat)
  /-- 8EH with reg = 01, MOV CS: refused (R191, D26) -/
  | movToCs
  /-- the bytes given end before the instruction does -/
  | truncated
  deriving DecidableEq, Repr

/-- An instruction of one byte. -/
def dOp (i : Instr) : Decoded := .instr i 1

/-- `OP_I8` (R199), and any one immediate byte after `n` bytes. -/
def dI8 (n : Nat) (rest : List Byte) (k : Byte → Instr) : Decoded :=
  match rest with
  | a :: _ => .instr (k a) (n + 1)
  | [] => .truncated

/-- `OP_I16` (R199), and any two immediate bytes after `n` bytes. -/
def dI16 (n : Nat) (rest : List Byte) (k : Word → Instr) : Decoded :=
  match rest with
  | a :: b :: _ => .instr (k (wordOfBytes a b)) (n + 2)
  | _ => .truncated

/-- `OP_IW` (R179): one byte if w = 0, else two. -/
def dIW (w : Bool) (n : Nat) (rest : List Byte) (k : Imm → Instr) : Decoded :=
  match w with
  | false => dI8 n rest fun v => k (.byte v)
  | true => dI16 n rest fun v => k (.word v)

/-- `OP_PTR32`: offset, then segment (R182). -/
def dPtr (rest : List Byte) (k : Word → Word → Instr) : Decoded :=
  match rest with
  | a :: b :: c :: d :: _ => .instr (k (wordOfBytes a b) (wordOfBytes c d)) 5
  | _ => .truncated

/-- The fields of a second byte `mod reg r/m` (R175). -/
structure ModRM where
  mod1 : Bool
  mod0 : Bool
  reg : BitVec 3
  rm : BitVec 3
  deriving DecidableEq, Repr

/-- The second byte taken apart (R175). -/
def ModRM.ofByte (b : Byte) : ModRM :=
  { mod1 := b.getLsbD 7, mod0 := b.getLsbD 6, reg := b.extractLsb' 3 3, rm := b.extractLsb' 0 3 }

/-- `decode_rm` (R176): the operand, the length so far and the bytes that are left. -/
def dRM (m : ModRM) (rest : List Byte) (k : RM → Nat → List Byte → Decoded) : Decoded :=
  match m.mod1, m.mod0 with
  | false, false =>
    if m.rm = 0b110#3 then
      match rest with
      | a :: b :: rest => k (.mem (.direct (wordOfBytes a b))) 4 rest
      | _ => .truncated
    else k (.mem (.plain (Base.ofBits m.rm))) 2 rest
  | false, true =>
    match rest with
    | a :: rest => k (.mem (.disp8 (Base.ofBits m.rm) a)) 3 rest
    | [] => .truncated
  | true, false =>
    match rest with
    | a :: b :: rest => k (.mem (.disp16 (Base.ofBits m.rm) (wordOfBytes a b))) 4 rest
    | _ => .truncated
  | true, true => k (.reg (Reg.ofBits m.rm)) 2 rest

/-- The second byte, taken apart, and what follows it. -/
def dSecond (rest : List Byte) (k : ModRM → List Byte → Decoded) : Decoded :=
  match rest with
  | b :: rest => k (ModRM.ofByte b) rest
  | [] => .truncated

/-- `OP_MODRM` with a register in the reg field. -/
def dRmReg (rest : List Byte) (k : RM → Reg → Instr) : Decoded :=
  dSecond rest fun m rest => dRM m rest fun rm n _ => .instr (k rm (Reg.ofBits m.reg)) n

/-- `OP_MODRM` whose operand must be in memory: mod = 11 is the unlisted class `c` (R190 U-l, U-m). -/
def dMemReg (c : Unlisted) (rest : List Byte) (k : MemRef → Reg → Instr) : Decoded :=
  dSecond rest fun m rest => dRM m rest fun rm n _ =>
    match rm with
    | .mem x => .instr (k x (Reg.ofBits m.reg)) n
    | .reg _ => .unlisted c 2

/-- `OP_MODRM` of a group slot. -/
def dG (m : ModRM) (rest : List Byte) (k : RM → Instr) : Decoded :=
  dRM m rest fun rm n _ => .instr (k rm) n

/-- `OP_MODRM` of a group slot whose operand must be in memory (R190 U-l). -/
def dGMem (m : ModRM) (rest : List Byte) (k : MemRef → Instr) : Decoded :=
  dRM m rest fun rm n _ =>
    match rm with
    | .mem x => .instr (k x) n
    | .reg _ => .unlisted .ul 2

/-- `OP_MODRM_I8` of a group slot. -/
def dGI8 (m : ModRM) (rest : List Byte) (k : RM → Byte → Instr) : Decoded :=
  dRM m rest fun rm n rest => dI8 n rest (k rm)

/-- `OP_MODRM_IW` of a group slot. -/
def dGIW (w : Bool) (m : ModRM) (rest : List Byte) (k : RM → Imm → Instr) : Decoded :=
  dRM m rest fun rm n rest => dIW w n rest (k rm)

/-- 80H and 81H (R183). -/
def decodeImmGroup (w : Bool) (m : ModRM) (rest : List Byte) : Decoded :=
  match m.reg.getLsbD 2, m.reg.getLsbD 1, m.reg.getLsbD 0 with
  | false, false, false => dGIW w m rest .addRmImm
  | false, false, true => dGIW w m rest .orRmImm
  | false, true, false => dGIW w m rest .adcRmImm
  | false, true, true => dGIW w m rest .sbbRmImm
  | true, false, false => dGIW w m rest .andRmImm
  | true, false, true => dGIW w m rest .subRmImm
  | true, true, false => dGIW w m rest .xorRmImm
  | true, true, true => dGIW w m rest .cmpRmImm

/-- 82H (R179, R183). -/
def decodeImm82 (m : ModRM) (rest : List Byte) : Decoded :=
  match m.reg.getLsbD 2, m.reg.getLsbD 1, m.reg.getLsbD 0 with
  | false, false, false => dGI8 m rest .addRm8Imm8
  | false, true, false => dGI8 m rest .adcRm8Imm8
  | false, true, true => dGI8 m rest .sbbRm8Imm8
  | true, false, true => dGI8 m rest .subRm8Imm8
  | true, true, true => dGI8 m rest .cmpRm8Imm8
  | false, false, true => .unlisted .ue 2
  | true, false, false => .unlisted .ue 2
  | true, true, false => .unlisted .ue 2

/-- 83H (R179, R183). -/
def decodeImm83 (m : ModRM) (rest : List Byte) : Decoded :=
  match m.reg.getLsbD 2, m.reg.getLsbD 1, m.reg.getLsbD 0 with
  | false, false, false => dGI8 m rest .addRm16Imm8
  | false, true, false => dGI8 m rest .adcRm16Imm8
  | false, true, true => dGI8 m rest .sbbRm16Imm8
  | true, false, true => dGI8 m rest .subRm16Imm8
  | true, true, true => dGI8 m rest .cmpRm16Imm8
  | false, false, true => .unlisted .ue 2
  | true, false, false => .unlisted .ue 2
  | true, true, false => .unlisted .ue 2

/-- D0H, D1H: shifts and rotates by 1 (R183, R334). -/
def decodeShift1 (w : Bool) (m : ModRM) (rest : List Byte) : Decoded :=
  match m.reg.getLsbD 2, m.reg.getLsbD 1, m.reg.getLsbD 0 with
  | false, false, false => dG m rest (.rolRm1 (.ofBit w))
  | false, false, true => dG m rest (.rorRm1 (.ofBit w))
  | false, true, false => dG m rest (.rclRm1 (.ofBit w))
  | false, true, true => dG m rest (.rcrRm1 (.ofBit w))
  | true, false, false => dG m rest (.shlRm1 (.ofBit w))
  | true, false, true => dG m rest (.shrRm1 (.ofBit w))
  | true, true, false => .unlisted .uh 2
  | true, true, true => dG m rest (.sarRm1 (.ofBit w))

/-- D2H, D3H: shifts and rotates by CL (R183, R334). -/
def decodeShiftCl (w : Bool) (m : ModRM) (rest : List Byte) : Decoded :=
  match m.reg.getLsbD 2, m.reg.getLsbD 1, m.reg.getLsbD 0 with
  | false, false, false => dG m rest (.rolRmCl (.ofBit w))
  | false, false, true => dG m rest (.rorRmCl (.ofBit w))
  | false, true, false => dG m rest (.rclRmCl (.ofBit w))
  | false, true, true => dG m rest (.rcrRmCl (.ofBit w))
  | true, false, false => dG m rest (.shlRmCl (.ofBit w))
  | true, false, true => dG m rest (.shrRmCl (.ofBit w))
  | true, true, false => .unlisted .uh 2
  | true, true, true => dG m rest (.sarRmCl (.ofBit w))

/-- C0H, C1H: shifts and rotates by an immediate count (R183, R334). -/
def decodeShiftImm (w : Bool) (m : ModRM) (rest : List Byte) : Decoded :=
  match m.reg.getLsbD 2, m.reg.getLsbD 1, m.reg.getLsbD 0 with
  | false, false, false => dGI8 m rest (.rolRmImm (.ofBit w))
  | false, false, true => dGI8 m rest (.rorRmImm (.ofBit w))
  | false, true, false => dGI8 m rest (.rclRmImm (.ofBit w))
  | false, true, true => dGI8 m rest (.rcrRmImm (.ofBit w))
  | true, false, false => dGI8 m rest (.shlRmImm (.ofBit w))
  | true, false, true => dGI8 m rest (.shrRmImm (.ofBit w))
  | true, true, false => .unlisted .uh 2
  | true, true, true => dGI8 m rest (.sarRmImm (.ofBit w))

/-- F6H, F7H (R183). -/
def decodeGroupF6 (w : Bool) (m : ModRM) (rest : List Byte) : Decoded :=
  match m.reg.getLsbD 2, m.reg.getLsbD 1, m.reg.getLsbD 0 with
  | false, false, false => dGIW w m rest .testRmImm
  | false, false, true => .unlisted .ui 2
  | false, true, false => dG m rest (.notRm (.ofBit w))
  | false, true, true => dG m rest (.negRm (.ofBit w))
  | true, false, false => dG m rest (.mulRm (.ofBit w))
  | true, false, true => dG m rest (.imulRm (.ofBit w))
  | true, true, false => dG m rest (.divRm (.ofBit w))
  | true, true, true => dG m rest (.idivRm (.ofBit w))

/-- FEH (R183). -/
def decodeGroupFE (m : ModRM) (rest : List Byte) : Decoded :=
  match m.reg.getLsbD 2, m.reg.getLsbD 1, m.reg.getLsbD 0 with
  | false, false, false => dG m rest (.incRm .byte)
  | false, false, true => dG m rest (.decRm .byte)
  | _, _, _ => .unlisted .uj 2

/-- FFH (R183). -/
def decodeGroupFF (m : ModRM) (rest : List Byte) : Decoded :=
  match m.reg.getLsbD 2, m.reg.getLsbD 1, m.reg.getLsbD 0 with
  | false, false, false => dG m rest (.incRm .word)
  | false, false, true => dG m rest (.decRm .word)
  | false, true, false => dG m rest .callNearRm
  | false, true, true => dGMem m rest .callFarMem
  | true, false, false => dG m rest .jmpNearRm
  | true, false, true => dGMem m rest .jmpFarMem
  | true, true, false => dG m rest .pushRm
  | true, true, true => .unlisted .uk 2

/-- 8CH (R227, R190 U-n). -/
def decodeMovFromSreg (m : ModRM) (rest : List Byte) : Decoded :=
  match m.reg.getLsbD 2 with
  | true => .unlisted .un 2
  | false => dG m rest fun rm => .movRmSreg rm (SegReg.ofBits (m.reg.getLsbD 1) (m.reg.getLsbD 0))

/-- 8EH (R226, R190 U-n, R191). -/
def decodeMovToSreg (m : ModRM) (rest : List Byte) : Decoded :=
  match m.reg.getLsbD 2, m.reg.getLsbD 1, m.reg.getLsbD 0 with
  | true, _, _ => .unlisted .un 2
  | false, false, true => .movToCs
  | false, hi, lo => dG m rest (.movSregRm (SegReg.ofBits hi lo))

/-- First bytes 00H to 0FH (R182). -/
def decode0 (b3 b2 b1 b0 : Bool) (rest : List Byte) : Decoded :=
  match b3, b2, b1, b0 with
  | false, false, d, w => dRmReg rest (.addRmReg (.ofBit d) (.ofBit w))
  | false, true, false, w => dIW w 1 rest .addAccImm
  | false, true, true, false => dOp .pushEs
  | false, true, true, true => dOp .popEs
  | true, false, d, w => dRmReg rest (.orRmReg (.ofBit d) (.ofBit w))
  | true, true, false, w => dIW w 1 rest .orAccImm
  | true, true, true, false => dOp .pushCs
  | true, true, true, true => .unlisted .ua 1

/-- First bytes 10H to 1FH (R182). -/
def decode1 (b3 b2 b1 b0 : Bool) (rest : List Byte) : Decoded :=
  match b3, b2, b1, b0 with
  | false, false, d, w => dRmReg rest (.adcRmReg (.ofBit d) (.ofBit w))
  | false, true, false, w => dIW w 1 rest .adcAccImm
  | false, true, true, false => dOp .pushSs
  | false, true, true, true => dOp .popSs
  | true, false, d, w => dRmReg rest (.sbbRmReg (.ofBit d) (.ofBit w))
  | true, true, false, w => dIW w 1 rest .sbbAccImm
  | true, true, true, false => dOp .pushDs
  | true, true, true, true => dOp .popDs

/-- First bytes 20H to 2FH (R182). -/
def decode2 (b3 b2 b1 b0 : Bool) (rest : List Byte) : Decoded :=
  match b3, b2, b1, b0 with
  | false, false, d, w => dRmReg rest (.andRmReg (.ofBit d) (.ofBit w))
  | false, true, false, w => dIW w 1 rest .andAccImm
  | false, true, true, false => dOp .segEs
  | false, true, true, true => dOp .daa
  | true, false, d, w => dRmReg rest (.subRmReg (.ofBit d) (.ofBit w))
  | true, true, false, w => dIW w 1 rest .subAccImm
  | true, true, true, false => dOp .segCs
  | true, true, true, true => dOp .das

/-- First bytes 30H to 3FH (R182). -/
def decode3 (b3 b2 b1 b0 : Bool) (rest : List Byte) : Decoded :=
  match b3, b2, b1, b0 with
  | false, false, d, w => dRmReg rest (.xorRmReg (.ofBit d) (.ofBit w))
  | false, true, false, w => dIW w 1 rest .xorAccImm
  | false, true, true, false => dOp .segSs
  | false, true, true, true => dOp .aaa
  | true, false, d, w => dRmReg rest (.cmpRmReg (.ofBit d) (.ofBit w))
  | true, true, false, w => dIW w 1 rest .cmpAccImm
  | true, true, true, false => dOp .segDs
  | true, true, true, true => dOp .aas

/-- First bytes 60H to 6FH (R182). -/
def decode6 (b3 b2 b1 b0 : Bool) (rest : List Byte) : Decoded :=
  match b3, b2, b1, b0 with
  | false, false, false, false => dOp .pusha
  | false, false, false, true => dOp .popa
  | false, false, true, false => dMemReg .um rest fun x r => .bound r x
  | false, false, true, true => .unlisted .ub 1
  | false, true, _, _ => .unlisted .ub 1
  | true, false, false, false => dI16 1 rest .pushImm16
  | true, false, false, true =>
    dSecond rest fun m rest => dRM m rest fun rm n rest => dI16 n rest (.imulRegRmImm16 (Reg.ofBits m.reg) rm)
  | true, false, true, false => dI8 1 rest .pushImm8
  | true, false, true, true =>
    dSecond rest fun m rest => dRM m rest fun rm n rest => dI8 n rest (.imulRegRmImm8 (Reg.ofBits m.reg) rm)
  | true, true, false, w => dOp (.ins (.ofBit w))
  | true, true, true, w => dOp (.outs (.ofBit w))

/-- First bytes 70H to 7FH: the conditional jumps (R182, R385). -/
def decode7 (b3 b2 b1 b0 : Bool) (rest : List Byte) : Decoded :=
  match b3, b2, b1, b0 with
  | false, false, false, false => dI8 1 rest .jo
  | false, false, false, true => dI8 1 rest .jno
  | false, false, true, false => dI8 1 rest .jb
  | false, false, true, true => dI8 1 rest .jnb
  | false, true, false, false => dI8 1 rest .je
  | false, true, false, true => dI8 1 rest .jne
  | false, true, true, false => dI8 1 rest .jbe
  | false, true, true, true => dI8 1 rest .jnbe
  | true, false, false, false => dI8 1 rest .js
  | true, false, false, true => dI8 1 rest .jns
  | true, false, true, false => dI8 1 rest .jp
  | true, false, true, true => dI8 1 rest .jnp
  | true, true, false, false => dI8 1 rest .jl
  | true, true, false, true => dI8 1 rest .jnl
  | true, true, true, false => dI8 1 rest .jle
  | true, true, true, true => dI8 1 rest .jnle

/-- First bytes 80H to 8FH (R182). -/
def decode8 (b3 b2 b1 b0 : Bool) (rest : List Byte) : Decoded :=
  match b3, b2, b1, b0 with
  | false, false, false, w => dSecond rest (decodeImmGroup w)
  | false, false, true, false => dSecond rest decodeImm82
  | false, false, true, true => dSecond rest decodeImm83
  | false, true, false, w => dRmReg rest (.testRmReg (.ofBit w))
  | false, true, true, w => dRmReg rest (.xchgRmReg (.ofBit w))
  | true, false, false, w => dRmReg rest (.movRmReg (.ofBit w))
  | true, false, true, w => dRmReg rest fun rm r => .movRegRm (.ofBit w) r rm
  | true, true, false, false => dSecond rest decodeMovFromSreg
  | true, true, false, true => dMemReg .um rest fun x r => .lea r x
  | true, true, true, false => dSecond rest decodeMovToSreg
  | true, true, true, true =>
    dSecond rest fun m rest => if m.reg = 0b000#3 then dG m rest .popRm else .unlisted .uf 2

/-- First bytes 90H to 9FH (R182). -/
def decode9 (b3 b2 b1 b0 : Bool) (rest : List Byte) : Decoded :=
  match b3, b2, b1, b0 with
  | false, false, false, false => dOp .nop
  | false, false, false, true => dOp (.xchgAxReg .cx_cl)
  | false, false, true, false => dOp (.xchgAxReg .dx_dl)
  | false, false, true, true => dOp (.xchgAxReg .bx_bl)
  | false, true, false, false => dOp (.xchgAxReg .sp_ah)
  | false, true, false, true => dOp (.xchgAxReg .bp_ch)
  | false, true, true, false => dOp (.xchgAxReg .si_dh)
  | false, true, true, true => dOp (.xchgAxReg .di_bh)
  | true, false, false, false => dOp .cbw
  | true, false, false, true => dOp .cwd
  | true, false, true, false => dPtr rest .callFar
  | true, false, true, true => dOp .wait
  | true, true, false, false => dOp .pushf
  | true, true, false, true => dOp .popf
  | true, true, true, false => dOp .sahf
  | true, true, true, true => dOp .lahf

/-- First bytes A0H to AFH (R182). -/
def decodeA (b3 b2 b1 b0 : Bool) (rest : List Byte) : Decoded :=
  match b3, b2, b1, b0 with
  | false, false, false, w => dI16 1 rest (.movAccMem (.ofBit w))
  | false, false, true, w => dI16 1 rest (.movMemAcc (.ofBit w))
  | false, true, false, w => dOp (.movs (.ofBit w))
  | false, true, true, w => dOp (.cmps (.ofBit w))
  | true, false, false, w => dIW w 1 rest .testAccImm
  | true, false, true, w => dOp (.stos (.ofBit w))
  | true, true, false, w => dOp (.lods (.ofBit w))
  | true, true, true, w => dOp (.scas (.ofBit w))

/-- First bytes C0H to CFH (R182). -/
def decodeC (b3 b2 b1 b0 : Bool) (rest : List Byte) : Decoded :=
  match b3, b2, b1, b0 with
  | false, false, false, w => dSecond rest (decodeShiftImm w)
  | false, false, true, false => dI16 1 rest .retNearImm
  | false, false, true, true => dOp .retNear
  | false, true, false, false => dMemReg .ul rest fun x r => .les r x
  | false, true, false, true => dMemReg .ul rest fun x r => .lds r x
  | false, true, true, w =>
    dSecond rest fun m rest => if m.reg = 0b000#3 then dGIW w m rest .movRmImm else .unlisted .ug 2
  | true, false, false, false =>
    match rest with
    | a :: b :: c :: _ => .instr (.enter (wordOfBytes a b) c) 4
    | _ => .truncated
  | true, false, false, true => dOp .leave
  | true, false, true, false => dI16 1 rest .retFarImm
  | true, false, true, true => dOp .retFar
  | true, true, false, false => dOp .int3
  | true, true, false, true => dI8 1 rest .intType
  | true, true, true, false => dOp .into
  | true, true, true, true => dOp .iret

/-- D4H and D5H: the second byte is the fixed 0AH (R309, R310, R190 U-o). -/
def decodeB2 (rest : List Byte) (i : Instr) : Decoded :=
  match rest with
  | b :: _ => if b = 0x0A#8 then .instr i 2 else .unlisted .uo 2
  | [] => .truncated

/-- ESC (R445): TTT are the low bits of the first byte, LLL the reg field. -/
def decodeEsc (ttt : BitVec 3) (rest : List Byte) : Decoded :=
  dSecond rest fun m rest => dG m rest (.esc ttt m.reg)

/-- First bytes D0H to DFH (R182). -/
def decodeD (op : Byte) (b3 b2 b1 b0 : Bool) (rest : List Byte) : Decoded :=
  match b3, b2, b1, b0 with
  | false, false, false, w => dSecond rest (decodeShift1 w)
  | false, false, true, w => dSecond rest (decodeShiftCl w)
  | false, true, false, false => decodeB2 rest .aam
  | false, true, false, true => decodeB2 rest .aad
  | false, true, true, false => .unlisted .uc 1
  | false, true, true, true => dOp .xlat
  | true, _, _, _ => decodeEsc (op.extractLsb' 0 3) rest

/-- First bytes E0H to EFH (R182). -/
def decodeE (b3 b2 b1 b0 : Bool) (rest : List Byte) : Decoded :=
  match b3, b2, b1, b0 with
  | false, false, false, false => dI8 1 rest .loopnz
  | false, false, false, true => dI8 1 rest .loopz
  | false, false, true, false => dI8 1 rest .loop
  | false, false, true, true => dI8 1 rest .jcxz
  | false, true, false, w => dI8 1 rest (.inAccPort (.ofBit w))
  | false, true, true, w => dI8 1 rest (.outPortAcc (.ofBit w))
  | true, false, false, false => dI16 1 rest .callNear
  | true, false, false, true => dI16 1 rest .jmpNear
  | true, false, true, false => dPtr rest .jmpFar
  | true, false, true, true => dI8 1 rest .jmpShort
  | true, true, false, w => dOp (.inAccDx (.ofBit w))
  | true, true, true, w => dOp (.outDxAcc (.ofBit w))

/-- First bytes F0H to FFH (R182). -/
def decodeF (b3 b2 b1 b0 : Bool) (rest : List Byte) : Decoded :=
  match b3, b2, b1, b0 with
  | false, false, false, false => dOp .lock
  | false, false, false, true => .unlisted .ud 1
  | false, false, true, z => dOp (.rep z)
  | false, true, false, false => dOp .hlt
  | false, true, false, true => dOp .cmc
  | false, true, true, w => dSecond rest (decodeGroupF6 w)
  | true, false, false, false => dOp .clc
  | true, false, false, true => dOp .stc
  | true, false, true, false => dOp .cli
  | true, false, true, true => dOp .sti
  | true, true, false, false => dOp .cld
  | true, true, false, true => dOp .std
  | true, true, true, false => dSecond rest decodeGroupFE
  | true, true, true, true => dSecond rest decodeGroupFF

/-- The instruction at the front of a byte string (R182). -/
def decode (bytes : List Byte) : Decoded :=
  match bytes with
  | [] => .truncated
  | op :: rest =>
    let b3 := op.getLsbD 3
    let b2 := op.getLsbD 2
    let b1 := op.getLsbD 1
    let b0 := op.getLsbD 0
    let r := Reg.ofBits (op.extractLsb' 0 3)
    match op.getLsbD 7, op.getLsbD 6, op.getLsbD 5, op.getLsbD 4 with
    | false, false, false, false => decode0 b3 b2 b1 b0 rest
    | false, false, false, true => decode1 b3 b2 b1 b0 rest
    | false, false, true, false => decode2 b3 b2 b1 b0 rest
    | false, false, true, true => decode3 b3 b2 b1 b0 rest
    | false, true, false, false => dOp (if b3 then .decReg r else .incReg r)
    | false, true, false, true => dOp (if b3 then .popReg r else .pushReg r)
    | false, true, true, false => decode6 b3 b2 b1 b0 rest
    | false, true, true, true => decode7 b3 b2 b1 b0 rest
    | true, false, false, false => decode8 b3 b2 b1 b0 rest
    | true, false, false, true => decode9 b3 b2 b1 b0 rest
    | true, false, true, false => decodeA b3 b2 b1 b0 rest
    | true, false, true, true => if b3 then dI16 1 rest (.movReg16Imm r) else dI8 1 rest (.movReg8Imm r)
    | true, true, false, false => decodeC b3 b2 b1 b0 rest
    | true, true, false, true => decodeD op b3 b2 b1 b0 rest
    | true, true, true, false => decodeE b3 b2 b1 b0 rest
    | true, true, true, true => decodeF b3 b2 b1 b0 rest

/-! ### Encoding -/

/-- An opcode pattern with w in bit 0 (R174). -/
def opW (op : Byte) (w : Width) : Byte := if w.bit then op ||| 1#8 else op

/-- An opcode pattern with d in bit 1 and w in bit 0 (R174). -/
def opDW (op : Byte) (d : Dir) (w : Width) : Byte := opW (if d.bit then op ||| 2#8 else op) w

/-- An opcode pattern with a 3-bit field in bits 2..0 (R174). -/
def opReg (op : Byte) (r : BitVec 3) : Byte := op ||| r.setWidth 8

/-- The second byte `mod reg r/m` (R175). -/
def modRM (mod : BitVec 2) (reg rm : BitVec 3) : Byte := (mod ++ reg ++ rm : BitVec 8)

/-- The two bytes of a 16-bit field, low byte first (R136). -/
def encWord (v : Word) : List Byte := [v.low, v.high]

/-- The second byte and displacement of a memory operand (R176). -/
def encMem (reg : BitVec 3) : MemRef → List Byte
  | .plain b => [modRM 0b00#2 reg b.bits]
  | .direct d => modRM 0b00#2 reg 0b110#3 :: encWord d
  | .disp8 b d => [modRM 0b01#2 reg b.bits, d]
  | .disp16 b d => modRM 0b10#2 reg b.bits :: encWord d

/-- The second byte and displacement of an r/m operand (R175, R176). -/
def encRM (reg : BitVec 3) : RM → List Byte
  | .reg r => [modRM 0b11#2 reg r.bits]
  | .mem m => encMem reg m

/-- Immediate data (R179). -/
def encImm : Imm → List Byte
  | .byte v => [v]
  | .word v => encWord v

/-- The bytes of an instruction (R182, R183, R199). -/
def encode : Instr → List Byte
  | .movRmReg w rm reg => opW 0x88#8 w :: encRM reg.bits rm
  | .movRegRm w reg rm => opW 0x8A#8 w :: encRM reg.bits rm
  | .movRmImm rm imm => opW 0xC6#8 imm.width :: (encRM 0b000#3 rm ++ encImm imm)
  | .movReg8Imm reg imm => opReg 0xB0#8 reg.bits :: [imm]
  | .movReg16Imm reg imm => opReg 0xB8#8 reg.bits :: encWord imm
  | .movAccMem w addr => opW 0xA0#8 w :: encWord addr
  | .movMemAcc w addr => opW 0xA2#8 w :: encWord addr
  | .movSregRm sreg rm => 0x8E#8 :: encRM sreg.bits rm
  | .movRmSreg rm sreg => 0x8C#8 :: encRM sreg.bits rm
  | .pushRm rm => 0xFF#8 :: encRM 0b110#3 rm
  | .pushReg reg => [opReg 0x50#8 reg.bits]
  | .pushEs => [0x06#8]
  | .pushCs => [0x0E#8]
  | .pushSs => [0x16#8]
  | .pushDs => [0x1E#8]
  | .pushImm16 imm => 0x68#8 :: encWord imm
  | .pushImm8 imm => 0x6A#8 :: [imm]
  | .pusha => [0x60#8]
  | .popRm rm => 0x8F#8 :: encRM 0b000#3 rm
  | .popReg reg => [opReg 0x58#8 reg.bits]
  | .popEs => [0x07#8]
  | .popSs => [0x17#8]
  | .popDs => [0x1F#8]
  | .popa => [0x61#8]
  | .xchgRmReg w rm reg => opW 0x86#8 w :: encRM reg.bits rm
  | .nop => [0x90#8]
  | .xchgAxReg reg => [opReg 0x90#8 reg.bits]
  | .inAccPort w port => opW 0xE4#8 w :: [port]
  | .inAccDx w => [opW 0xEC#8 w]
  | .outPortAcc w port => opW 0xE6#8 w :: [port]
  | .outDxAcc w => [opW 0xEE#8 w]
  | .xlat => [0xD7#8]
  | .lea reg mem => 0x8D#8 :: encMem reg.bits mem
  | .lds reg mem => 0xC5#8 :: encMem reg.bits mem
  | .les reg mem => 0xC4#8 :: encMem reg.bits mem
  | .lahf => [0x9F#8]
  | .sahf => [0x9E#8]
  | .pushf => [0x9C#8]
  | .popf => [0x9D#8]
  | .addRmReg d w rm reg => opDW 0x00#8 d w :: encRM reg.bits rm
  | .addRmImm rm imm => opW 0x80#8 imm.width :: (encRM 0b000#3 rm ++ encImm imm)
  | .addRm8Imm8 rm imm => 0x82#8 :: (encRM 0b000#3 rm ++ [imm])
  | .addRm16Imm8 rm imm => 0x83#8 :: (encRM 0b000#3 rm ++ [imm])
  | .addAccImm imm => opW 0x04#8 imm.width :: encImm imm
  | .adcRmReg d w rm reg => opDW 0x10#8 d w :: encRM reg.bits rm
  | .adcRmImm rm imm => opW 0x80#8 imm.width :: (encRM 0b010#3 rm ++ encImm imm)
  | .adcRm8Imm8 rm imm => 0x82#8 :: (encRM 0b010#3 rm ++ [imm])
  | .adcRm16Imm8 rm imm => 0x83#8 :: (encRM 0b010#3 rm ++ [imm])
  | .adcAccImm imm => opW 0x14#8 imm.width :: encImm imm
  | .subRmReg d w rm reg => opDW 0x28#8 d w :: encRM reg.bits rm
  | .subRmImm rm imm => opW 0x80#8 imm.width :: (encRM 0b101#3 rm ++ encImm imm)
  | .subRm8Imm8 rm imm => 0x82#8 :: (encRM 0b101#3 rm ++ [imm])
  | .subRm16Imm8 rm imm => 0x83#8 :: (encRM 0b101#3 rm ++ [imm])
  | .subAccImm imm => opW 0x2C#8 imm.width :: encImm imm
  | .sbbRmReg d w rm reg => opDW 0x18#8 d w :: encRM reg.bits rm
  | .sbbRmImm rm imm => opW 0x80#8 imm.width :: (encRM 0b011#3 rm ++ encImm imm)
  | .sbbRm8Imm8 rm imm => 0x82#8 :: (encRM 0b011#3 rm ++ [imm])
  | .sbbRm16Imm8 rm imm => 0x83#8 :: (encRM 0b011#3 rm ++ [imm])
  | .sbbAccImm imm => opW 0x1C#8 imm.width :: encImm imm
  | .cmpRmReg d w rm reg => opDW 0x38#8 d w :: encRM reg.bits rm
  | .cmpRmImm rm imm => opW 0x80#8 imm.width :: (encRM 0b111#3 rm ++ encImm imm)
  | .cmpRm8Imm8 rm imm => 0x82#8 :: (encRM 0b111#3 rm ++ [imm])
  | .cmpRm16Imm8 rm imm => 0x83#8 :: (encRM 0b111#3 rm ++ [imm])
  | .cmpAccImm imm => opW 0x3C#8 imm.width :: encImm imm
  | .andRmReg d w rm reg => opDW 0x20#8 d w :: encRM reg.bits rm
  | .andRmImm rm imm => opW 0x80#8 imm.width :: (encRM 0b100#3 rm ++ encImm imm)
  | .andAccImm imm => opW 0x24#8 imm.width :: encImm imm
  | .orRmReg d w rm reg => opDW 0x08#8 d w :: encRM reg.bits rm
  | .orRmImm rm imm => opW 0x80#8 imm.width :: (encRM 0b001#3 rm ++ encImm imm)
  | .orAccImm imm => opW 0x0C#8 imm.width :: encImm imm
  | .xorRmReg d w rm reg => opDW 0x30#8 d w :: encRM reg.bits rm
  | .xorRmImm rm imm => opW 0x80#8 imm.width :: (encRM 0b110#3 rm ++ encImm imm)
  | .xorAccImm imm => opW 0x34#8 imm.width :: encImm imm
  | .incRm w rm => opW 0xFE#8 w :: encRM 0b000#3 rm
  | .incReg reg => [opReg 0x40#8 reg.bits]
  | .decRm w rm => opW 0xFE#8 w :: encRM 0b001#3 rm
  | .decReg reg => [opReg 0x48#8 reg.bits]
  | .testRmImm rm imm => opW 0xF6#8 imm.width :: (encRM 0b000#3 rm ++ encImm imm)
  | .notRm w rm => opW 0xF6#8 w :: encRM 0b010#3 rm
  | .negRm w rm => opW 0xF6#8 w :: encRM 0b011#3 rm
  | .mulRm w rm => opW 0xF6#8 w :: encRM 0b100#3 rm
  | .imulRm w rm => opW 0xF6#8 w :: encRM 0b101#3 rm
  | .divRm w rm => opW 0xF6#8 w :: encRM 0b110#3 rm
  | .idivRm w rm => opW 0xF6#8 w :: encRM 0b111#3 rm
  | .imulRegRmImm16 reg rm imm => 0x69#8 :: (encRM reg.bits rm ++ encWord imm)
  | .imulRegRmImm8 reg rm imm => 0x6B#8 :: (encRM reg.bits rm ++ [imm])
  | .aaa => [0x37#8]
  | .aas => [0x3F#8]
  | .daa => [0x27#8]
  | .das => [0x2F#8]
  | .aam => 0xD4#8 :: [0x0A#8]
  | .aad => 0xD5#8 :: [0x0A#8]
  | .cbw => [0x98#8]
  | .cwd => [0x99#8]
  | .testRmReg w rm reg => opW 0x84#8 w :: encRM reg.bits rm
  | .testAccImm imm => opW 0xA8#8 imm.width :: encImm imm
  | .rolRm1 w rm => opW 0xD0#8 w :: encRM 0b000#3 rm
  | .rolRmCl w rm => opW 0xD2#8 w :: encRM 0b000#3 rm
  | .rolRmImm w rm count => opW 0xC0#8 w :: (encRM 0b000#3 rm ++ [count])
  | .rorRm1 w rm => opW 0xD0#8 w :: encRM 0b001#3 rm
  | .rorRmCl w rm => opW 0xD2#8 w :: encRM 0b001#3 rm
  | .rorRmImm w rm count => opW 0xC0#8 w :: (encRM 0b001#3 rm ++ [count])
  | .rclRm1 w rm => opW 0xD0#8 w :: encRM 0b010#3 rm
  | .rclRmCl w rm => opW 0xD2#8 w :: encRM 0b010#3 rm
  | .rclRmImm w rm count => opW 0xC0#8 w :: (encRM 0b010#3 rm ++ [count])
  | .rcrRm1 w rm => opW 0xD0#8 w :: encRM 0b011#3 rm
  | .rcrRmCl w rm => opW 0xD2#8 w :: encRM 0b011#3 rm
  | .rcrRmImm w rm count => opW 0xC0#8 w :: (encRM 0b011#3 rm ++ [count])
  | .shlRm1 w rm => opW 0xD0#8 w :: encRM 0b100#3 rm
  | .shlRmCl w rm => opW 0xD2#8 w :: encRM 0b100#3 rm
  | .shlRmImm w rm count => opW 0xC0#8 w :: (encRM 0b100#3 rm ++ [count])
  | .shrRm1 w rm => opW 0xD0#8 w :: encRM 0b101#3 rm
  | .shrRmCl w rm => opW 0xD2#8 w :: encRM 0b101#3 rm
  | .shrRmImm w rm count => opW 0xC0#8 w :: (encRM 0b101#3 rm ++ [count])
  | .sarRm1 w rm => opW 0xD0#8 w :: encRM 0b111#3 rm
  | .sarRmCl w rm => opW 0xD2#8 w :: encRM 0b111#3 rm
  | .sarRmImm w rm count => opW 0xC0#8 w :: (encRM 0b111#3 rm ++ [count])
  | .movs w => [opW 0xA4#8 w]
  | .cmps w => [opW 0xA6#8 w]
  | .scas w => [opW 0xAE#8 w]
  | .lods w => [opW 0xAC#8 w]
  | .stos w => [opW 0xAA#8 w]
  | .ins w => [opW 0x6C#8 w]
  | .outs w => [opW 0x6E#8 w]
  | .rep z => [if z then 0xF3#8 else 0xF2#8]
  | .callNear disp => 0xE8#8 :: encWord disp
  | .callNearRm rm => 0xFF#8 :: encRM 0b010#3 rm
  | .callFar off seg => 0x9A#8 :: (encWord off ++ encWord seg)
  | .callFarMem mem => 0xFF#8 :: encMem 0b011#3 mem
  | .jmpShort disp => 0xEB#8 :: [disp]
  | .jmpNear disp => 0xE9#8 :: encWord disp
  | .jmpNearRm rm => 0xFF#8 :: encRM 0b100#3 rm
  | .jmpFar off seg => 0xEA#8 :: (encWord off ++ encWord seg)
  | .jmpFarMem mem => 0xFF#8 :: encMem 0b101#3 mem
  | .retNear => [0xC3#8]
  | .retNearImm k => 0xC2#8 :: encWord k
  | .retFar => [0xCB#8]
  | .retFarImm k => 0xCA#8 :: encWord k
  | .jo disp => 0x70#8 :: [disp]
  | .jno disp => 0x71#8 :: [disp]
  | .jb disp => 0x72#8 :: [disp]
  | .jnb disp => 0x73#8 :: [disp]
  | .je disp => 0x74#8 :: [disp]
  | .jne disp => 0x75#8 :: [disp]
  | .jbe disp => 0x76#8 :: [disp]
  | .jnbe disp => 0x77#8 :: [disp]
  | .js disp => 0x78#8 :: [disp]
  | .jns disp => 0x79#8 :: [disp]
  | .jp disp => 0x7A#8 :: [disp]
  | .jnp disp => 0x7B#8 :: [disp]
  | .jl disp => 0x7C#8 :: [disp]
  | .jnl disp => 0x7D#8 :: [disp]
  | .jle disp => 0x7E#8 :: [disp]
  | .jnle disp => 0x7F#8 :: [disp]
  | .loop disp => 0xE2#8 :: [disp]
  | .loopz disp => 0xE1#8 :: [disp]
  | .loopnz disp => 0xE0#8 :: [disp]
  | .jcxz disp => 0xE3#8 :: [disp]
  | .intType type => 0xCD#8 :: [type]
  | .int3 => [0xCC#8]
  | .into => [0xCE#8]
  | .iret => [0xCF#8]
  | .enter size level => 0xC8#8 :: (encWord size ++ [level])
  | .leave => [0xC9#8]
  | .bound reg mem => 0x62#8 :: encMem reg.bits mem
  | .clc => [0xF8#8]
  | .stc => [0xF9#8]
  | .cmc => [0xF5#8]
  | .cld => [0xFC#8]
  | .std => [0xFD#8]
  | .cli => [0xFA#8]
  | .sti => [0xFB#8]
  | .hlt => [0xF4#8]
  | .wait => [0x9B#8]
  | .lock => [0xF0#8]
  | .esc ttt lll rm => opReg 0xD8#8 ttt :: encRM lll rm
  | .segEs => [0x26#8]
  | .segCs => [0x2E#8]
  | .segSs => [0x36#8]
  | .segDs => [0x3E#8]

/-! ### The opcode table's words -/

/-- The bytes an opcode-table word stands for, followed by zero bytes up to the longest instruction:
a row of eight bits is the opcode byte, a row of sixteen is `opcode * 256 + second byte` (R199), so
its first byte is bits 15..8 (log 29). -/
def tableBytes (nbits w : Nat) : List Byte :=
  let first := if nbits ≤ 8 then [BitVec.ofNat 8 w] else [BitVec.ofNat 8 (w / 256), BitVec.ofNat 8 w]
  first ++ List.replicate (6 - first.length) 0#8

/-- The instruction the decoder reads from an opcode-table word. -/
def decodeTableWord (nbits w : Nat) : Option Instr :=
  match decode (tableBytes nbits w) with
  | .instr i _ => some i
  | .unlisted _ _ => none
  | .movToCs => none
  | .truncated => none

end Sys2Proof
end

