-- ==== Sys2Proof/Machine/State.lean ====
section
/-! DEFINITION. The machine's state as plain data, its stops, and the state after reset. Everything the
spec gives the CPU and the integrated peripherals has a field; `INVENTORY.md` lists each with its rule. -/

namespace Sys2Proof.Machine

/-! ### The CPU -/

/-- The eight general registers (R21). -/
structure Regs where
  ax : Word
  cx : Word
  dx : Word
  bx : Word
  sp : Word
  bp : Word
  si : Word
  di : Word
  deriving DecidableEq, Repr

/-- The four segment registers (R25). -/
structure Segs where
  es : Word
  cs : Word
  ss : Word
  ds : Word
  deriving DecidableEq, Repr

/-- The nine flags of the status word; its other seven bits hold no state (R35, R36). -/
structure Flags where
  cf : Bool
  pf : Bool
  af : Bool
  zf : Bool
  sf : Bool
  tf : Bool
  ifl : Bool
  df : Bool
  ofl : Bool
  deriving DecidableEq, Repr

/-- The prefixes read so far of the instruction being fetched (R172, R173); the repeat prefix is its
z bit (R360). -/
structure Pfx where
  seg : Option SegReg
  rep : Option Bool
  lock : Bool
  deriving DecidableEq, Repr

/-- The seven string instructions (R350). -/
inductive StringOp where
  | movs
  | cmps
  | scas
  | lods
  | stos
  | ins
  | outs
  deriving DecidableEq, Repr

/-- What the CPU is doing between steps (R48, R360). -/
inductive Activity where
  /-- the next step fetches -/
  | running
  /-- after HLT (R440) -/
  | halted
  /-- in the loop of WAIT (R441) -/
  | waiting
  /-- between two elements of a repeated string instruction (R360) -/
  | repeating (op : StringOp) (w : Width)
  deriving DecidableEq, Repr

/-- An instruction boundary that waits for the bus (R471, R600): TF at the start of the step before it, and whether
that was WAIT (R472). -/
structure Due where
  traced : Bool
  wait : Bool
  deriving DecidableEq, Repr

/-- A byte that was overwritten while a copy of its old value may have been in the prefetch queue
(R45, R162): its address, the old value, and how far past IP_next it was. -/
structure StaleByte where
  addr : Addr
  old : Byte
  ahead : Nat
  deriving DecidableEq, Repr

/-! ### Pins -/

/-- The level of each input pin (R530); `true` is HIGH. -/
structure Pins where
  nmi : Bool
  int0 : Bool
  int1 : Bool
  int2 : Bool
  int3 : Bool
  drq0 : Bool
  drq1 : Bool
  tmrIn0 : Bool
  tmrIn1 : Bool
  test : Bool
  hold : Bool
  deriving DecidableEq, Repr

/-- The name of an input pin (R530). -/
inductive Pin where
  | nmi
  | int0
  | int1
  | int2
  | int3
  | drq0
  | drq1
  | tmrIn0
  | tmrIn1
  | test
  | hold
  deriving DecidableEq, Repr

/-! ### The peripherals -/

/-- The chip-select registers and their "accessed" flags (R66 to R72). -/
structure ChipSel where
  umcs : Word
  lmcs : Word
  pacs : Word
  mmcs : Word
  mpcs : Word
  lmcsOn : Bool
  pacsOn : Bool
  mmcsOn : Bool
  mpcsOn : Bool
  deriving DecidableEq, Repr

/-- The two DMA channels (R75). -/
inductive Channel where
  | c0
  | c1
  deriving DecidableEq, Repr

/-- One DMA channel: its registers (R76 to R78), the data latch (R560), how many timer 2 requests it has
not served (R589, D35), and whether it has run since reset (R566). -/
structure DmaChannel where
  src : Addr
  dst : Addr
  count : Word
  ctrl : Word
  latch : Word
  tmrReqs : Nat
  ran : Bool
  deriving DecidableEq, Repr

/-- Both channels, which made the previous transfer (R566), and whether the bus was relinquished after a
destination-synchronised transfer (R562). -/
structure DmaUnit where
  ch0 : DmaChannel
  ch1 : DmaChannel
  last : Channel
  yielded : Bool
  deriving DecidableEq, Repr

/-- The three timers (R580). -/
inductive TimerId where
  | t0
  | t1
  | t2
  deriving DecidableEq, Repr

/-- One timer: its registers (R89 to R91) with the mode word bit by bit, and what has happened since its
last service slot (R580, R582): an input edge, the first trigger, a maximum count of timer 2. -/
structure Timer where
  count : Word
  maxA : Word
  maxB : Word
  en : Bool
  int : Bool
  riu : Bool
  mc : Bool
  rtg : Bool
  p : Bool
  ext : Bool
  alt : Bool
  cont : Bool
  edge : Bool
  triggered : Bool
  tick : Bool
  deriving DecidableEq, Repr

/-- The three timers together. -/
structure Timers where
  t0 : Timer
  t1 : Timer
  t2 : Timer
  deriving DecidableEq, Repr

/-- What the interrupt controller holds for one source: level, mask bit, in-service bit (R490). -/
structure Source where
  pr : BitVec 3
  msk : Bool
  isv : Bool
  deriving DecidableEq, Repr

/-- The interrupt controller: the seven sources of master mode (R490), the trigger, cascade and special
fully nested bits of the pins (R107), the edge bits (R492), the stored requests (R103, R108), DHLT
(R108), the priority mask (R105), and the five sources, the level mask and the vector register of
iRMX mode (R117 to R121). -/
structure Intc where
  tmr : Source
  d0 : Source
  d1 : Source
  i0 : Source
  i1 : Source
  i2 : Source
  i3 : Source
  ltm0 : Bool
  ltm1 : Bool
  ltm2 : Bool
  ltm3 : Bool
  cas0 : Bool
  cas1 : Bool
  sfnm0 : Bool
  sfnm1 : Bool
  armed0 : Bool
  armed1 : Bool
  armed2 : Bool
  armed3 : Bool
  irD0 : Bool
  irD1 : Bool
  irt0 : Bool
  irt1 : Bool
  irt2 : Bool
  dhlt : Bool
  prm : BitVec 3
  rT0 : Source
  rD0 : Source
  rD1 : Source
  rT1 : Source
  rT2 : Source
  rMask : BitVec 3
  ivr : Byte
  deriving DecidableEq, Repr

/-! ### The platform and the schedule -/

/-- One I/O write cycle the platform has seen (R150). -/
structure PortWrite where
  port : Word
  wide : Bool
  value : Word
  deriving DecidableEq, Repr

/-- What is at an address of memory (`MEMORY_MAP` of R10, D3). -/
inductive Place where
  /-- keeps what is written -/
  | ram
  /-- keeps what it holds -/
  | rom
  /-- answers and takes bytes as the platform pleases -/
  | device
  /-- refused -/
  | nothing
  deriving DecidableEq, Repr

/-- What is at the addresses `first` to `last` of memory. -/
structure MemRange where
  first : Nat
  last : Nat
  place : Place
  deriving DecidableEq, Repr

/-- Whether devices are at the ports `first` to `last` (`IO_MAP` of R10, D3). -/
structure PortRange where
  first : Nat
  last : Nat
  device : Bool
  deriving DecidableEq, Repr

/-- One byte written to a device in memory space. -/
structure MemWrite where
  addr : Addr
  value : Byte
  deriving DecidableEq, Repr

/-- What an external master does to the platform; what it reads changes nothing here (R600). -/
inductive Master where
  /-- writes a byte of memory -/
  | write (a : Addr) (b : Byte)
  /-- writes a port -/
  | out (port : Word) (wide : Bool) (value : Word)
  deriving DecidableEq, Repr

/-- What needs no bus: a timer's service slot, and what the outside world puts on the pins (R530, R581). -/
inductive World where
  /-- a timer gets one service slot (R581) -/
  | slot (t : TimerId)
  /-- a pin goes to a level -/
  | pin (p : Pin) (high : Bool)
  /-- the byte an external controller will put on the bus in an INTA cycle (R495, R524) -/
  | inta (b : Byte)
  /-- what a device presents at a port (D3) -/
  | device (port : Word) (b : Byte)
  /-- what a device presents at an address of memory (D3) -/
  | memDevice (a : Addr) (b : Byte)
  deriving DecidableEq, Repr

/-- What happens inside one step of the CPU or one DMA transfer, between two of its bus cycles (R146, R567, R600,
R620; log 8). -/
inductive Between where
  /-- nothing more before the next data cycle of the CPU: it goes, and the entries after this one come later -/
  | pass
  /-- a DMA channel makes one transfer, if it may (R562) -/
  | dma (c : Channel)
  /-- an external master that is granted the bus -/
  | master (m : Master)
  /-- a timer or the outside world, which LOCK does not hold back -/
  | world (w : World)
  /-- RES (R620) -/
  | reset
  /-- an external master between the two byte cycles of the CPU's next word at an odd address or port, whose high
  byte moves first or last (R141, R146, D10, D11) -/
  | midMaster (highFirst : Bool) (m : Master)
  /-- RES between the two byte cycles of the next word at an odd address or port -/
  | midReset (highFirst : Bool)
  /-- which of the two byte cycles of the next word at an odd address or port comes first, where nothing falls between
  them; LOCK and DMA included (R141, D10) -/
  | byteOrder (highFirst : Bool)
  /-- RES between the fetch cycle and the store cycle of a DMA transfer (R620) -/
  | dmaReset
  /-- the next interrupt sequence pushes before it reads the table, as the agents watching the bus may see it (R470,
  D30; log 42) -/
  | pushesFirst
  deriving DecidableEq, Repr

/-- Who moves next: an agent of R7, or the host (R530). The model's own (log 7). -/
inductive Turn where
  /-- the CPU makes one step -/
  | cpu
  /-- a DMA channel makes one transfer, if it may (R562) -/
  | dma (c : Channel)
  /-- an external master that holds the bus (R600) -/
  | master (m : Master)
  /-- a timer or the outside world -/
  | world (w : World)
  /-- RES goes LOW long enough and HIGH again (R620) -/
  | reset
  /-- something inside the CPU step or DMA transfer under way; outside one RES and the outside world act all the same,
  and the rest does nothing (log 8) -/
  | between (b : Between)
  deriving DecidableEq, Repr

/-- Memory: the listed bytes, addresses strictly rising, none equal to what an unlisted byte reads as
(`Memory.wf` in `Machine/Memory.lean`; log 1). -/
abbrev Memory := List Host.Cell

/-- The whole machine. -/
structure State where
  regs : Regs
  segs : Segs
  ip : Word
  flags : Flags
  /-- offset of the first byte of the current instruction, prefixes included (R31) -/
  ipStart : Word
  pfx : Pfx
  activity : Activity
  /-- R47 -/
  inhibit : Bool
  /-- R47 -/
  inhibitInt : Bool
  /-- R46 -/
  nmiLatch : Bool
  /-- the boundary the CPU passes once the bus is its own again (R363, R600; log 32) -/
  due : Option Due
  mem : Memory
  /-- MEMORY_MAP (R10, D3): the first range that holds an address says what is there; RAM where none does (log 43) -/
  memMap : List MemRange
  /-- IO_MAP (R10, D3), likewise; a device where no range holds the port (log 43) -/
  ioMap : List PortRange
  /-- the byte a device presents at an address of memory, where the host has said one (D3) -/
  memDevices : List (Nat × Byte)
  /-- the bytes written to devices in memory space, newest first -/
  memLog : List MemWrite
  /-- the byte the platform presents at a port, where the host has said one (D3) -/
  ports : List (Nat × Byte)
  /-- the I/O write cycles the platform has seen, newest first -/
  portLog : List PortWrite
  pins : Pins
  /-- EXTERNAL_VECTOR (R10, D20) -/
  intaByte : Byte
  /-- the acknowledge outputs that went LOW for the two INTA cycles of an acknowledge, newest first (R496, R521) -/
  acks : List Pin
  stale : List StaleByte
  reloc : Word
  chip : ChipSel
  dma : DmaUnit
  timers : Timers
  intc : Intc
  agenda : List Turn
  /-- how many free values have been drawn (R16; log 4) -/
  free : Nat
  deriving DecidableEq, Repr

/-! ### Stops -/

/-- What the CPU does that the spec refuses or gives no effect. Each is safe: the model stops where the
chip goes on. -/
inductive Refusal where
  /-- Raised by an arm of `exec` that has no meaning yet. Safe. -/
  | notModelled (mnemonic : String)
  /-- Raised by a 16-bit data access, a push or a pointer read that reaches offset FFFFH (R142, D5). Safe. -/
  | wordAtFFFF
  /-- Raised by IN, OUT, INS or OUTS on ports 00F8H to 00FFH (R151, D13). Safe. -/
  | reservedPort
  /-- Raised by a byte access, an odd-address word access or an instruction fetch in the control block
  (R65, D23). Safe. -/
  | blockAccess
  /-- Raised by a bus cycle or an instruction fetch at an address or port where the platform has nothing (R10,
  D3). Safe. -/
  | unpopulated
  /-- Raised by a write to an offset of the control block that holds no register (R64, U11). Safe. -/
  | blockHoleWrite
  /-- Raised by a write that puts the control block into I/O space with base bits above bit 15 (R62,
  U10). Safe. -/
  | relocationIOHigh
  /-- Raised by a control-word write that starts a DMA channel with SYN = 11 (R78, U14). Safe. -/
  | dmaSynUnused
  /-- Raised by a control-register write that leaves SFNM = 1 with C = 0 (R497, U17). Safe. -/
  | sfnmWithoutCascade
  /-- Raised by an iRMX control-word write with a level other than Table 16's (R522, U21). Safe. -/
  | irmxLevel
  /-- Raised by `8EH /1`, MOV CS (R191, D26). Safe. -/
  | movToCs
  /-- Raised by a repeat prefix before an instruction that is no string instruction (R192, R364, D21). Safe. -/
  | repeatNonString
  /-- Raised by a second prefix of one kind (R172, D17). Safe. -/
  | repeatedPrefix
  /-- Raised by an unlisted encoding outside `Config.raisesUnusedOpcode` (R190, D9). Safe. -/
  | unlistedOpcode
  /-- Raised when the bytes given to the decoder end inside an instruction; fetching always gives the six
  bytes of the longest instruction. Safe. -/
  | truncated
  deriving DecidableEq, Repr

/-- What a DMA channel, the interrupt-acknowledge sequence or an external bus master does that the spec
refuses. Each is safe: the model stops where the chip goes on. -/
inductive Fault where
  /-- Raised by a DMA cycle that addresses the control block (R561, U25). Safe. -/
  | dmaControlBlock
  /-- Raised by a DMA cycle at I/O ports 00F8H to 00FFH (R151, R561). Safe. -/
  | dmaReservedPort
  /-- Raised by a DMA cycle in I/O space whose pointer has a bit above bit 15 (R561, U24). Safe. -/
  | dmaPortRange
  /-- Raised by a DMA channel that runs with SYN = 11 (R562, U14). Safe. -/
  | dmaSynUnused
  /-- Raised by an iRMX acknowledge while a source has a level other than Table 16's (R522, U21). Safe. -/
  | irmxLevels
  /-- Raised by an iRMX acknowledge that selects this slave with no eligible source (R524, U22). Safe. -/
  | irmxNoSource
  /-- Raised by an external master that writes the control block (R601, U25). Safe. -/
  | masterControlBlock
  /-- Raised by a cycle of a DMA channel or an external master where the platform has nothing (R10, D3). Safe. -/
  | unpopulated
  /-- Raised by RES between two bus cycles of a step, with what has been done so far; `machineStep` never stops in it
  but makes the reset of it (R620; log 40). Safe. -/
  | res (done : State)
  deriving DecidableEq, Repr

/-- What every instruction meaning and every step answers. -/
abbrev Out := Host.Outcome State Fault Refusal

/-- What an operation that also yields a value answers. -/
abbrev Res (α : Type) := Host.Outcome (α × State) Fault Refusal

/-! ### Reset -/

/-- No prefix read. -/
def Pfx.none : Pfx := { seg := Option.none, rep := Option.none, lock := false }

/-- Every pin LOW (log 28). -/
def Pins.low : Pins :=
  { nmi := false, int0 := false, int1 := false, int2 := false, int3 := false, drq0 := false,
    drq1 := false, tmrIn0 := false, tmrIn1 := false, test := false, hold := false }

/-- FLAGS = F002H: the nine flags are 0 (R55). -/
def Flags.reset : Flags :=
  { cf := false, pf := false, af := false, zf := false, sf := false, tf := false, ifl := false,
    df := false, ofl := false }

/-- A channel after reset: stopped (R571); the other registers as log 3 names them. -/
def DmaChannel.reset : DmaChannel :=
  { src := 0, dst := 0, count := 0, ctrl := 0, latch := 0, tmrReqs := 0, ran := false }

/-- A timer after reset: EN and RIU clear (R590); the other registers as log 3 names them. -/
def Timer.reset : Timer :=
  { count := 0, maxA := 0, maxB := 0, en := false, int := false, riu := false, mc := false,
    rtg := false, p := false, ext := false, alt := false, cont := false, edge := false,
    triggered := false, tick := false }

/-- A source after reset: level 7, masked, not in service (R126). -/
def Source.reset : Source := { pr := 7, msk := true, isv := false }

/-- The interrupt controller after reset (R126); rMask and ivr as log 3 names them, armed as log 28. -/
def Intc.reset : Intc :=
  { tmr := .reset, d0 := .reset, d1 := .reset, i0 := .reset, i1 := .reset, i2 := .reset, i3 := .reset,
    ltm0 := false, ltm1 := false, ltm2 := false, ltm3 := false, cas0 := false, cas1 := false,
    sfnm0 := false, sfnm1 := false, armed0 := true, armed1 := true, armed2 := true, armed3 := true,
    irD0 := false, irD1 := false, irt0 := false, irt1 := false, irt2 := false, dhlt := false,
    prm := 7, rT0 := .reset, rD0 := .reset, rD1 := .reset, rT1 := .reset, rT2 := .reset,
    rMask := 7, ivr := 0 }

/-- The machine right after reset (R55, R56, R126, R620). Registers whose value the spec does not give
hold the values of logs 2 and 3. -/
def State.reset : State :=
  { regs := { ax := 0, cx := 0, dx := 0, bx := 0, sp := 0, bp := 0, si := 0, di := 0 }
    segs := { es := 0, cs := 0xFFFF, ss := 0, ds := 0 }
    ip := 0
    flags := .reset
    ipStart := 0
    pfx := .none
    activity := .running
    inhibit := false
    inhibitInt := false
    nmiLatch := false
    due := none
    mem := []
    memMap := []
    ioMap := []
    memDevices := []
    memLog := []
    ports := []
    portLog := []
    pins := .low
    intaByte := 0
    acks := []
    stale := []
    reloc := 0x20FF
    chip := { umcs := 0xFFFB, lmcs := 0, pacs := 0x0038, mmcs := 0x01F8, mpcs := 0x8038,
              lmcsOn := false, pacsOn := false, mmcsOn := false, mpcsOn := false }
    dma := { ch0 := .reset, ch1 := .reset, last := .c0, yielded := false }
    timers := { t0 := .reset, t1 := .reset, t2 := .reset }
    intc := .reset
    agenda := []
    free := 0 }

end Sys2Proof.Machine
end

