-- ==== Sys2Proof/Machine/Memory.lean ====
section
/-! DEFINITION. Chaining of outcomes, the free values a state draws, and memory as sorted cells: the read
and the write of one byte, the canonical form, and the overwritten bytes the prefetch queue may still hold. -/

namespace Sys2Proof.Machine

/-! ### Chaining -/

/-- Go on with the value and the state of `x`, or stop as `x` stops. -/
def seq {α β : Type} (x : Res α) (k : α → State → Host.Outcome β Fault Refusal) :
    Host.Outcome β Fault Refusal :=
  match x with
  | .next (a, s) => k a s
  | .fault r => .fault r
  | .refused r => .refused r

/-- Go on with the state of `x`, or stop as `x` stops. -/
def andThen {β : Type} (x : Out) (k : State → Host.Outcome β Fault Refusal) :
    Host.Outcome β Fault Refusal :=
  match x with
  | .next s => k s
  | .fault r => .fault r
  | .refused r => .refused r

/-! ### Free values -/

/-- The n-th free bit from here (R16; log 4). -/
def State.freeBit (s : State) (n : Nat) : Bool := Config.freeBit (s.free + n)

/-- Three free bits, from the n-th on. -/
def State.freeBits3 (s : State) (n : Nat) : BitVec 3 :=
  BitVec.ofBool (s.freeBit n) ++ BitVec.ofBool (s.freeBit (n + 1)) ++ BitVec.ofBool (s.freeBit (n + 2))

/-- The next free word (U8, U11, U13; log 5). -/
def State.freeWord (s : State) : Word := Config.freeWord s.free

/-- `n` free values have been drawn. -/
def State.drawn (s : State) (n : Nat) : State := { s with free := s.free + n }

/-! ### Bytes of memory -/

/-- What a byte of memory that nothing has written reads as (log 1). -/
def Memory.unlisted : Byte := 0x00#8

/-- One byte read. -/
def Memory.get : Memory → Nat → Byte
  | [], _ => Memory.unlisted
  | (k, v) :: rest, a => if k = a then v else Memory.get rest a

/-- One byte written, in canonical form. -/
def Memory.put : Memory → Nat → Byte → Memory
  | [], a, v => if v = Memory.unlisted then [] else [(a, v)]
  | (k, x) :: rest, a, v =>
    if a < k then (if v = Memory.unlisted then (k, x) :: rest else (a, v) :: (k, x) :: rest)
    else if a = k then (if v = Memory.unlisted then rest else (a, v) :: rest)
    else (k, x) :: Memory.put rest a v

/-- Every key lies above `a`. -/
def Memory.above (a : Nat) : Memory → Bool
  | [] => true
  | (k, _) :: rest => decide (a < k) && Memory.above a rest

/-- The canonical form: addresses strictly rising and inside the 2^20 bytes (R40), no entry equal to what
an unlisted byte reads as. -/
def Memory.wf : Memory → Bool
  | [] => true
  | (k, v) :: rest =>
    decide (k < 1048576) && decide (v ≠ Memory.unlisted) && Memory.above k rest && Memory.wf rest

/-! ### Address formation -/

/-- `phys(seg, off)`: segment times 16 plus offset, modulo 2^20 (R131, R132). -/
def phys (seg off : Word) : Addr := (seg.setWidth 20 <<< 4) + off.setWidth 20

/-! ### Stores and the prefetch queue -/

/-- How far past IP_next the byte at `a` lies in the code segment (R162); none if it lies outside. -/
def State.codeAhead (s : State) (a : Addr) : Option Nat :=
  let off := (a - phys s.segs.cs 0).toNat
  if off < 65536 then some ((off + 65536 - s.ip.toNat) % 65536) else none

/-- The byte at a physical address. -/
def State.loadByte (s : State) (a : Addr) : Byte := s.mem.get a.toNat

/-- The overwritten bytes after a store: a byte of the code segment whose value changes is remembered with
its old value (R162; log 12). -/
def State.noteStale (s : State) (a : Addr) (v : Byte) : List StaleByte :=
  if s.loadByte a = v then s.stale
  else match s.codeAhead a with
    | some k => { addr := a, old := s.loadByte a, ahead := k } :: s.stale
    | none => s.stale

/-- A byte stored at a physical address by any agent. -/
def State.storeByte (s : State) (a : Addr) (v : Byte) : State :=
  { s with mem := s.mem.put a.toNat v, stale := s.noteStale a v }

/-- The word at a physical address, low byte first, the second byte at a + 1 modulo 2^20 (R135). -/
def State.loadWord (s : State) (a : Addr) : Word := wordOfBytes (s.loadByte a) (s.loadByte (a + 1))

/-- A word stored likewise (R135, R141). -/
def State.storeWord (s : State) (a : Addr) (v : Word) : State :=
  (s.storeByte a (Word.low v)).storeByte (a + 1) (Word.high v)

/-! ### Ports -/

/-- The byte the host has said a port presents. -/
def portLookup : List (Nat × Byte) → Nat → Option Byte
  | [], _ => none
  | (k, v) :: rest, p => if k = p then some v else portLookup rest p

/-- The host says what a port presents. -/
def portSet : List (Nat × Byte) → Nat → Byte → List (Nat × Byte)
  | [], p, v => [(p, v)]
  | (k, x) :: rest, p, v =>
    if p < k then (p, v) :: (k, x) :: rest
    else if p = k then (p, v) :: rest
    else (k, x) :: portSet rest p v

/-- The byte read at a port: what the host has said, else a free value (D3; log 6). -/
def State.devicePort (s : State) (p : Word) : Byte × State :=
  match portLookup s.ports p.toNat with
  | some b => (b, s)
  | none => (Config.deviceByte s.free p, s.drawn 1)

/-- An I/O write cycle reaches the platform (R150). -/
def State.logPort (s : State) (p : Word) (wide : Bool) (v : Word) : State :=
  { s with portLog := { port := p, wide := wide, value := v } :: s.portLog }

end Sys2Proof.Machine
end

