-- ==== Sys2Proof/Machine/IntCtl.lean ====
section
/-! DEFINITION. The interrupt controller: requests, eligibility, acknowledge, end of interrupt and polling in
master mode (R490 to R499, R512) and in iRMX 86 mode (R520 to R525), and its registers' images
(R101 to R110, R117 to R121). -/

namespace Sys2Proof.Machine

/-! ### Pins -/

/-- The level of a pin (R530). -/
def Pins.level (p : Pins) : Pin → Bool
  | .nmi => p.nmi
  | .int0 => p.int0
  | .int1 => p.int1
  | .int2 => p.int2
  | .int3 => p.int3
  | .drq0 => p.drq0
  | .drq1 => p.drq1
  | .tmrIn0 => p.tmrIn0
  | .tmrIn1 => p.tmrIn1
  | .test => p.test
  | .hold => p.hold

/-! ### Sources of master mode -/

/-- The seven sources, in the default order of Table 4 (R490, R493). -/
inductive IntSource where
  | tmr
  | d0
  | d1
  | i0
  | i1
  | i2
  | i3
  deriving DecidableEq, Repr

/-- The default order (R493). -/
def IntSource.inOrder : List IntSource := [.tmr, .d0, .d1, .i0, .i1, .i2, .i3]

/-- A source's place in the default order (R460, R493). -/
def IntSource.default : IntSource → Nat
  | .tmr => 2
  | .d0 => 4
  | .d1 => 5
  | .i0 => 6
  | .i1 => 7
  | .i2 => 8
  | .i3 => 9

/-- What the controller holds for a source. -/
def Intc.source (c : Intc) : IntSource → Source
  | .tmr => c.tmr
  | .d0 => c.d0
  | .d1 => c.d1
  | .i0 => c.i0
  | .i1 => c.i1
  | .i2 => c.i2
  | .i3 => c.i3

/-- A source's level, mask and in-service bits replaced. -/
def Intc.setSource (c : Intc) (k : IntSource) (x : Source) : Intc :=
  match k with
  | .tmr => { c with tmr := x }
  | .d0 => { c with d0 := x }
  | .d1 => { c with d1 := x }
  | .i0 => { c with i0 := x }
  | .i1 => { c with i1 := x }
  | .i2 => { c with i2 := x }
  | .i3 => { c with i3 := x }

/-- A source's in-service bit written. -/
def Intc.setService (c : Intc) (k : IntSource) (b : Bool) : Intc :=
  c.setSource k { c.source k with isv := b }

/-- INT2 and INT3 are not sources where they are acknowledge outputs (R493, R496). -/
def Intc.isSource (c : Intc) : IntSource → Bool
  | .i2 => !c.cas0
  | .i3 => !c.cas1
  | _ => true

/-- The level-trigger bit of a source (R107); the internal sources have none. -/
def Intc.level (c : Intc) : IntSource → Bool
  | .i0 => c.ltm0
  | .i1 => c.ltm1
  | .i2 => c.ltm2
  | .i3 => c.ltm3
  | _ => false

/-- SFNM of I0 or I1 (R107, R497). -/
def Intc.special (c : Intc) : IntSource → Bool
  | .i0 => c.sfnm0
  | .i1 => c.sfnm1
  | _ => false

/-- C of I0 or I1 (R107, R496). -/
def Intc.cascade (c : Intc) : IntSource → Bool
  | .i0 => c.cas0
  | .i1 => c.cas1
  | _ => false

/-- An external request: the level, or in edge mode the level while armed (R492). -/
def pinRequest (level high armed : Bool) : Bool := high && (level || armed)

/-- `IR(s)` (R491, R492). -/
def State.intRequest (s : State) : IntSource → Bool
  | .tmr => s.intc.irt0 || s.intc.irt1 || s.intc.irt2
  | .d0 => s.intc.irD0
  | .d1 => s.intc.irD1
  | .i0 => pinRequest s.intc.ltm0 s.pins.int0 s.intc.armed0
  | .i1 => pinRequest s.intc.ltm1 s.pins.int1 s.intc.armed1
  | .i2 => pinRequest s.intc.ltm2 s.pins.int2 s.intc.armed2 && s.intc.isSource .i2
  | .i3 => pinRequest s.intc.ltm3 s.pins.int3 s.intc.armed3 && s.intc.isSource .i3

/-- Whether an in-service source `u` holds off the source `k` (R493 conditions 5 and 6, D29). -/
def Intc.holdsOff (c : Intc) (k u : IntSource) : Bool :=
  decide (u ≠ k) && c.isSource u && (c.source u).isv &&
    (decide ((c.source u).pr < (c.source k).pr) ||
      (decide ((c.source u).pr = (c.source k).pr) &&
        (Config.equalLevelBlocked || decide (u.default < k.default))))

/-- A source is eligible: the six conditions of R493. -/
def State.eligible (s : State) (k : IntSource) : Bool :=
  s.intRequest k && !(s.intc.source k).msk && decide ((s.intc.source k).pr ≤ s.intc.prm) &&
    (!(s.intc.source k).isv || s.intc.special k) &&
    !IntSource.inOrder.any (s.intc.holdsOff k)

/-- The source of a list with the smallest key among those with `ok`: the smallest level, and of equal
levels the earlier in the list (R493). -/
def Intc.smallest (c : Intc) (ok : IntSource → Bool) : List IntSource → Option IntSource
  | [] => none
  | k :: rest =>
    match Intc.smallest c ok rest with
    | none => if ok k then some k else none
    | some b => if ok k && decide ((c.source k).pr ≤ (c.source b).pr) then some k else some b

/-- The source the controller presents (R493). -/
def State.presented (s : State) : Option IntSource :=
  s.intc.smallest s.eligible IntSource.inOrder

/-- The internal vector type of a source (R495); of the timers, that of the lowest-numbered pending one. -/
def Intc.vectorType (c : Intc) : IntSource → Byte
  | .tmr => if c.irt0 then 8 else if c.irt1 then 18 else 19
  | .d0 => 10
  | .d1 => 11
  | .i0 => 12
  | .i1 => 13
  | .i2 => 14
  | .i3 => 15

/-- The request of an acknowledged source is reset: the served timer's bit, the DMA channel's bit, or in
edge mode the pin is disarmed (R492, R495). -/
def Intc.clearRequest (c : Intc) (k : IntSource) : Intc :=
  match k with
  | .tmr => if c.irt0 then { c with irt0 := false } else if c.irt1 then { c with irt1 := false }
    else { c with irt2 := false }
  | .d0 => { c with irD0 := false }
  | .d1 => { c with irD1 := false }
  | .i0 => { c with armed0 := c.armed0 && c.ltm0 }
  | .i1 => { c with armed1 := c.armed1 && c.ltm1 }
  | .i2 => { c with armed2 := c.armed2 && c.ltm2 }
  | .i3 => { c with armed3 := c.armed3 && c.ltm3 }

/-- What the acknowledge of a source does to the controller (R495): its in-service bit is set, its request
reset. -/
def State.acknowledged (s : State) (k : IntSource) : State :=
  { s with intc := (s.intc.setService k true).clearRequest k }

/-- The vector of an interrupt acknowledge: fixed, or in cascade mode the external controller's byte
(R495, R496). -/
def State.ackVector (s : State) (k : IntSource) : Byte :=
  if s.intc.cascade k then s.intaByte else s.intc.vectorType k

/-- The source a specific EOI names (R498). -/
def eoiSource (t : BitVec 5) : Option IntSource :=
  if t = 8 then some .tmr else if t = 10 then some .d0 else if t = 11 then some .d1
  else if t = 12 then some .i0 else if t = 13 then some .i1 else if t = 14 then some .i2
  else if t = 15 then some .i3 else none

/-- A write to the EOI register (R109, R498); with nothing to reset it does nothing (U18). -/
def Intc.eoi (c : Intc) (v : Word) : Intc :=
  let target := if v.getLsbD 15 then
      c.smallest (fun k => c.isSource k && (c.source k).isv) IntSource.inOrder
    else eoiSource (v.extractLsb' 0 5)
  match target with
  | some k => c.setService k false
  | none => c

/-- The poll word: bit 15 and the type of the presented source; with no request bits 4 to 0 are free
(R110, R512). -/
def State.pollWord (s : State) : Word :=
  match s.presented with
  | some k => 0x8000#16 ||| (s.intc.vectorType k).setWidth 16
  | none => s.freeWord &&& 0x001F#16

/-- A read of Poll Status (R512). -/
def State.readPollStatus (s : State) : Word × State :=
  match s.presented with
  | some _ => (s.pollWord, s)
  | none => (s.pollWord, s.drawn 1)

/-- A read of Poll: the same word, and the presented source is acknowledged (R512). -/
def State.readPoll (s : State) : Word × State :=
  match s.presented with
  | some k => (s.pollWord, s.acknowledged k)
  | none => (s.pollWord, s.drawn 1)

/-! ### Register images of master mode -/

/-- The bit assignment shared by In-Service, Request and Mask (R101). -/
def sourceWord (f : IntSource → Bool) : Word :=
  0#8 ++ BitVec.ofBool (f .i3) ++ BitVec.ofBool (f .i2) ++ BitVec.ofBool (f .i1) ++
    BitVec.ofBool (f .i0) ++ BitVec.ofBool (f .d1) ++ BitVec.ofBool (f .d0) ++ 0#1 ++
    BitVec.ofBool (f .tmr)

/-- The bit of a source in a word of that assignment (R101). -/
def sourceBit (v : Word) : IntSource → Bool
  | .tmr => v.getLsbD 0
  | .d0 => v.getLsbD 2
  | .d1 => v.getLsbD 3
  | .i0 => v.getLsbD 4
  | .i1 => v.getLsbD 5
  | .i2 => v.getLsbD 6
  | .i3 => v.getLsbD 7

/-- A control word: SFNM, C, LTM, MSK, PR in bits 6 to 0 (R106, R107). -/
def Intc.controlWord (c : Intc) (k : IntSource) : Word :=
  0#9 ++ BitVec.ofBool (c.special k) ++ BitVec.ofBool (c.cascade k) ++ BitVec.ofBool (c.level k) ++
    BitVec.ofBool (c.source k).msk ++ (c.source k).pr

/-- PR and MSK of a control word written; the in-service bit is another register's (R106). -/
def Source.control (x : Source) (v : Word) : Source :=
  { x with pr := v.extractLsb' 0 3, msk := v.getLsbD 3 }

/-- A control word written to a source (R106, R107); SFNM without C is refused by the caller (R497). -/
def Intc.writeControl (c : Intc) (k : IntSource) (v : Word) : Intc :=
  let c := c.setSource k ((c.source k).control v)
  match k with
  | .i0 => { c with ltm0 := v.getLsbD 4, cas0 := v.getLsbD 5, sfnm0 := v.getLsbD 6 }
  | .i1 => { c with ltm1 := v.getLsbD 4, cas1 := v.getLsbD 5, sfnm1 := v.getLsbD 6 }
  | .i2 => { c with ltm2 := v.getLsbD 4 }
  | .i3 => { c with ltm3 := v.getLsbD 4 }
  | _ => c

/-- Whether a control word asks for SFNM without C on a pin that has them (R497, U17). -/
def sfnmAlone (k : IntSource) (v : Word) : Bool :=
  (decide (k = .i0) || decide (k = .i1)) && v.getLsbD 6 && !v.getLsbD 5

/-- A write to the Mask register: the mask bits of the control words (R104). -/
def Intc.writeMask (c : Intc) (v : Word) : Intc :=
  IntSource.inOrder.foldl (fun c k => c.setSource k { c.source k with msk := sourceBit v k }) c

/-- A write to the In-Service register (R102, R499). -/
def Intc.writeService (c : Intc) (v : Word) : Intc :=
  IntSource.inOrder.foldl (fun c k => c.setService k (sourceBit v k)) c

/-- The Interrupt Status word: DHLT in bit 15, IRT2 to IRT0 in bits 2 to 0 (R108). -/
def Intc.statusWord (c : Intc) : Word :=
  BitVec.ofBool c.dhlt ++ 0#12 ++ BitVec.ofBool c.irt2 ++ BitVec.ofBool c.irt1 ++ BitVec.ofBool c.irt0

/-- A write to the Interrupt Status register (R108, R499). -/
def Intc.writeStatus (c : Intc) (v : Word) : Intc :=
  { c with dhlt := v.getLsbD 15, irt2 := v.getLsbD 2, irt1 := v.getLsbD 1, irt0 := v.getLsbD 0 }

/-! ### iRMX 86 mode -/

/-- The five sources of iRMX mode (R522). -/
inductive RmxSource where
  | t0
  | d0
  | d1
  | t1
  | t2
  deriving DecidableEq, Repr

/-- The five sources, highest level first (R522). -/
def RmxSource.inOrder : List RmxSource := [.t0, .d0, .d1, .t1, .t2]

/-- The level Table 16 requires, which is also the bit number of the source (R117, R118). -/
def RmxSource.levelOf : RmxSource → BitVec 3
  | .t0 => 0
  | .d0 => 2
  | .d1 => 3
  | .t1 => 4
  | .t2 => 5

/-- What the controller holds for an iRMX source. -/
def Intc.rmxSource (c : Intc) : RmxSource → Source
  | .t0 => c.rT0
  | .d0 => c.rD0
  | .d1 => c.rD1
  | .t1 => c.rT1
  | .t2 => c.rT2

/-- An iRMX source replaced. -/
def Intc.setRmx (c : Intc) (k : RmxSource) (x : Source) : Intc :=
  match k with
  | .t0 => { c with rT0 := x }
  | .d0 => { c with rD0 := x }
  | .d1 => { c with rD1 := x }
  | .t1 => { c with rT1 := x }
  | .t2 => { c with rT2 := x }

/-- The request bit of an iRMX source (R117, R522). -/
def Intc.rmxRequest (c : Intc) : RmxSource → Bool
  | .t0 => c.irt0
  | .d0 => c.irD0
  | .d1 => c.irD1
  | .t1 => c.irt1
  | .t2 => c.irt2

/-- The request bit of an iRMX source written. -/
def Intc.setRmxRequest (c : Intc) (k : RmxSource) (b : Bool) : Intc :=
  match k with
  | .t0 => { c with irt0 := b }
  | .d0 => { c with irD0 := b }
  | .d1 => { c with irD1 := b }
  | .t1 => { c with irt1 := b }
  | .t2 => { c with irt2 := b }

/-- Every source is programmed at the level Table 16 requires (R522, U21). -/
def Intc.rmxLevelsOk (c : Intc) : Bool :=
  RmxSource.inOrder.all fun k => decide ((c.rmxSource k).pr = k.levelOf)

/-- Eligibility in iRMX mode (R523, D32). -/
def Intc.rmxEligible (c : Intc) (k : RmxSource) : Bool :=
  c.rmxRequest k && !(c.rmxSource k).msk && decide (k.levelOf ≤ c.rMask) &&
    !RmxSource.inOrder.any fun u => (c.rmxSource u).isv &&
      (decide (u.levelOf < k.levelOf) || (Config.irmxEqualMasked && decide (u = k)))

/-- The eligible source of the smallest level (R524). -/
def Intc.rmxPresented (c : Intc) : Option RmxSource := RmxSource.inOrder.find? c.rmxEligible

/-- INT3 in iRMX mode: the slave's request to the external master (R521, R523). -/
def State.slaveRequest (s : State) : Bool := s.intc.rmxPresented.isSome

/-- An iRMX acknowledge of this slave: the in-service bit is set, the request reset (R524). -/
def Intc.rmxAcknowledged (c : Intc) (k : RmxSource) : Intc :=
  (c.setRmx k { c.rmxSource k with isv := true }).setRmxRequest k false

/-- The internal vector of iRMX mode: the upper five bits of IVR and the level (R119, R524). -/
def Intc.rmxVector (c : Intc) (k : RmxSource) : Byte :=
  c.ivr.extractLsb' 3 5 ++ k.levelOf

/-- The bit assignment of iRMX In-Service, Request and Mask (R117). -/
def rmxWord (f : RmxSource → Bool) : Word :=
  0#10 ++ BitVec.ofBool (f .t2) ++ BitVec.ofBool (f .t1) ++ BitVec.ofBool (f .d1) ++
    BitVec.ofBool (f .d0) ++ 0#1 ++ BitVec.ofBool (f .t0)

/-- The bit of a source in a word of that assignment (R117). -/
def rmxBit (v : Word) (k : RmxSource) : Bool := v.getLsbD k.levelOf.toNat

/-- A control word of iRMX mode: msk in bit 3, pr in bits 2 to 0 (R118). -/
def Intc.rmxControlWord (c : Intc) (k : RmxSource) : Word :=
  0#12 ++ BitVec.ofBool (c.rmxSource k).msk ++ (c.rmxSource k).pr

/-- A control word of iRMX mode written (R118); another level is refused by the caller (R522). -/
def Intc.writeRmxControl (c : Intc) (k : RmxSource) (v : Word) : Intc :=
  c.setRmx k ((c.rmxSource k).control v)

/-- A write to the iRMX Mask register (R117). -/
def Intc.writeRmxMask (c : Intc) (v : Word) : Intc :=
  RmxSource.inOrder.foldl (fun c k => c.setRmx k { c.rmxSource k with msk := rmxBit v k }) c

/-- A write to the iRMX In-Service register (R116, R117). -/
def Intc.writeRmxService (c : Intc) (v : Word) : Intc :=
  RmxSource.inOrder.foldl (fun c k => c.setRmx k { c.rmxSource k with isv := rmxBit v k }) c

/-- A write to the iRMX Interrupt Request register (R116, R117). -/
def Intc.writeRmxRequest (c : Intc) (v : Word) : Intc :=
  RmxSource.inOrder.foldl (fun c k => c.setRmxRequest k (rmxBit v k)) c

/-- A write to the Specific EOI register: the in-service bit of level `v[2:0]` is reset (R120, R525). -/
def Intc.rmxEoi (c : Intc) (v : Word) : Intc :=
  match RmxSource.inOrder.find? fun k => decide (k.levelOf = v.extractLsb' 0 3) with
  | some k => c.setRmx k { c.rmxSource k with isv := false }
  | none => c

/-! ### A change of mode -/

/-- A source none of whose bits is specified, from free bit `n` on (R520, U20). -/
def State.freeSource (s : State) (n : Nat) : Source :=
  { pr := s.freeBits3 n, msk := s.freeBit (n + 3), isv := s.freeBit (n + 4) }

/-- After a change of relocation bit 14 every register of the controller but DHLT is unspecified
(R520, U20; log 19). -/
def State.scrambleIntc (s : State) : State :=
  { s.drawn 88 with
    intc :=
      { tmr := s.freeSource 0, d0 := s.freeSource 5, d1 := s.freeSource 10, i0 := s.freeSource 15
        i1 := s.freeSource 20, i2 := s.freeSource 25, i3 := s.freeSource 30
        rT0 := s.freeSource 35, rD0 := s.freeSource 40, rD1 := s.freeSource 45
        rT1 := s.freeSource 50, rT2 := s.freeSource 55
        ltm0 := s.freeBit 60, ltm1 := s.freeBit 61, ltm2 := s.freeBit 62, ltm3 := s.freeBit 63
        cas0 := s.freeBit 64, cas1 := s.freeBit 65, sfnm0 := s.freeBit 66, sfnm1 := s.freeBit 67
        irD0 := s.freeBit 68, irD1 := s.freeBit 69
        irt0 := s.freeBit 70, irt1 := s.freeBit 71, irt2 := s.freeBit 72
        prm := s.freeBits3 73, rMask := s.freeBits3 76
        ivr := s.freeBits3 79 ++ BitVec.ofBool (s.freeBit 82) ++ BitVec.ofBool (s.freeBit 83) ++ 0#3
        armed0 := s.intc.armed0, armed1 := s.intc.armed1
        armed2 := s.intc.armed2, armed3 := s.intc.armed3, dhlt := s.intc.dhlt } }

end Sys2Proof.Machine
end

