-- ==== Sys2Proof/Machine/Timers.lean ====
section
/-! DEFINITION. The three timers: what a service slot does (R580 to R585, R589), the mode word (R91, R586)
and the output pins (R588). -/

namespace Sys2Proof.Machine

/-- One of the three timers. -/
def Timers.get (t : Timers) : TimerId → Timer
  | .t0 => t.t0
  | .t1 => t.t1
  | .t2 => t.t2

/-- One of the three timers replaced. -/
def Timers.set (t : Timers) (k : TimerId) (x : Timer) : Timers :=
  match k with
  | .t0 => { t with t0 := x }
  | .t1 => { t with t1 := x }
  | .t2 => { t with t2 := x }

/-- The input pin of a timer; timer 2 has none (R580). -/
def State.timerPin (s : State) : TimerId → Bool
  | .t0 => s.pins.tmrIn0
  | .t1 => s.pins.tmrIn1
  | .t2 => false

/-- Whether a service slot restarts the timer: an input edge in retrigger mode (R583). -/
def Timer.restarts (t : Timer) (k : TimerId) : Bool :=
  decide (k ≠ .t2) && t.en && !t.ext && t.rtg && t.edge

/-- Whether a service slot brings a count event (R582, R583, R589). -/
def Timer.counts (t : Timer) (k : TimerId) (pin : Bool) : Bool :=
  t.en &&
    match k with
    | .t2 => true
    | _ =>
      if t.ext then t.edge
      else (!t.p || t.tick) && (if t.rtg then t.triggered && !t.edge else pin)

/-- The maximum count compared with (R585). -/
def Timer.max (t : Timer) : Word := if t.riu then t.maxB else t.maxA

/-- Whether this count event reaches the maximum count: an equality (R585). -/
def Timer.reaches (t : Timer) : Bool := decide (t.count + 1 = t.max)

/-- A count event (R585). -/
def Timer.advance (t : Timer) : Timer :=
  if t.reaches then
    { t with
      count := 0
      mc := true
      riu := t.alt && !t.riu
      en := t.en && (t.cont || (t.alt && !t.riu)) }
  else { t with count := t.count + 1 }

/-- What the slot saw of its input and of timer 2 is used up (R582). -/
def Timer.consumed (t : Timer) : Timer := { t with edge := false, tick := false }

/-- The timer's own registers after a service slot (R582 to R585; log 24). -/
def Timer.slot (t : Timer) (k : TimerId) (pin : Bool) : Timer :=
  if t.restarts k then { t.consumed with count := 0, triggered := true }
  else if t.counts k pin then t.advance.consumed
  else t.consumed

/-- The request bit of a timer is set (R491). -/
def Intc.timerRequest (c : Intc) : TimerId → Intc
  | .t0 => { c with irt0 := true }
  | .t1 => { c with irt1 := true }
  | .t2 => { c with irt2 := true }

/-- A maximum count of timer 2 asks each channel with TDRQ = 1 for one transfer (R589, D35). -/
def DmaChannel.timerAsks (d : DmaChannel) : DmaChannel :=
  if d.ctrl.getLsbD 4 then { d with tmrReqs := d.tmrReqs + 1 } else d

/-- What a maximum count of timer `k` does outside the timer: the interrupt request, and for timer 2 the
prescaled clock and the DMA requests (R491, R584, R589). -/
def State.timerReached (s : State) (k : TimerId) : State :=
  let intc := if (s.timers.get k).int then s.intc.timerRequest k else s.intc
  match k with
  | .t2 =>
    { s with
      intc := intc
      timers := { s.timers with t0 := { s.timers.t0 with tick := true }
                                t1 := { s.timers.t1 with tick := true } }
      dma := { s.dma with ch0 := s.dma.ch0.timerAsks, ch1 := s.dma.ch1.timerAsks } }
  | _ => { s with intc := intc }

/-- One service slot of a timer (R581, R582). -/
def State.timerSlot (s : State) (k : TimerId) : State :=
  let t := s.timers.get k
  let s' := { s with timers := s.timers.set k (t.slot k (s.timerPin k)) }
  if !t.restarts k && t.counts k (s.timerPin k) && t.reaches then s'.timerReached k else s'

/-! ### The mode word -/

/-- The mode word as it reads (R91): INH and bits 11 to 6 are 0. -/
def Timer.modeWord (t : Timer) : Word :=
  BitVec.ofBool t.en ++ 0#1 ++ BitVec.ofBool t.int ++ BitVec.ofBool t.riu ++ 0#6 ++
    BitVec.ofBool t.mc ++ BitVec.ofBool t.rtg ++ BitVec.ofBool t.p ++ BitVec.ofBool t.ext ++
    BitVec.ofBool t.alt ++ BitVec.ofBool t.cont

/-- A write to the mode word (R91, R586): EN only with INH = 1, RIU never but that ALT = 0 clears it;
RTG, P, EXT and ALT of timer 2 are hardwired 0. The retrigger state lasts while the timer stays enabled in
that mode (log 24). -/
def Timer.writeMode (t : Timer) (k : TimerId) (v : Word) : Timer :=
  let has := decide (k ≠ .t2)
  let en := if v.getLsbD 14 then v.getLsbD 15 else t.en
  let rtg := has && v.getLsbD 4
  let ext := has && v.getLsbD 2
  let alt := has && v.getLsbD 1
  { t with
    en := en
    int := v.getLsbD 13
    riu := t.riu && alt
    mc := v.getLsbD 5
    rtg := rtg
    p := has && v.getLsbD 3
    ext := ext
    alt := alt
    cont := v.getLsbD 0
    edge := t.edge && en
    tick := t.tick && en
    triggered := t.triggered && t.en && en && rtg && !ext }

/-- The level of TMR OUT 0 or 1: with ALT = 1 HIGH while counting to A; with ALT = 0 HIGH but for the
one-clock pulse, which is timing (R588; log 35). -/
def Timer.outLevel (t : Timer) : Bool := if t.alt then !t.riu else true

end Sys2Proof.Machine
end

