-- ==== Sys2Proof/Machine/Block.lean ====
section
/-! DEFINITION. The peripheral control block: its place (R60, R62), its offset map (R64, R100, R116), and what
a read and a write of each register do. -/

namespace Sys2Proof.Machine

/-! ### Where the block is -/

/-- Whether a memory address lies in the block: M/IO = 1 and the upper 12 address bits are the base's
(R60, R62). -/
def State.blockInMem (s : State) (a : Addr) : Bool :=
  s.reloc.getLsbD 12 && decide (a.extractLsb' 8 12 = s.reloc.extractLsb' 0 12)

/-- Whether a port lies in the block: M/IO = 0, base bits 19 to 16 are 0, and the upper 8 port bits are
the base's (R60, R62). -/
def State.blockInIO (s : State) (p : Word) : Bool :=
  !s.reloc.getLsbD 12 && decide (s.reloc.extractLsb' 8 4 = 0) &&
    decide (p.extractLsb' 8 8 = s.reloc.extractLsb' 0 8)

/-- The reserved ports 00F8H to 00FFH (R151). -/
def reservedPort (p : Word) : Bool := decide (p.extractLsb' 3 13 = 0x1F#13)

/-! ### The offset map -/

/-- The registers of the block (R64, R75, R88, R100, R116). -/
inductive BlockReg where
  | reloc
  | umcs
  | lmcs
  | pacs
  | mmcs
  | mpcs
  | dmaSrcLow (c : Channel)
  | dmaSrcHigh (c : Channel)
  | dmaDstLow (c : Channel)
  | dmaDstHigh (c : Channel)
  | dmaCount (c : Channel)
  | dmaCtrl (c : Channel)
  | tmrCount (t : TimerId)
  | tmrMaxA (t : TimerId)
  | tmrMaxB (t : TimerId)
  | tmrMode (t : TimerId)
  | srcCtrl (k : IntSource)
  | intStatus
  | intRequest
  | inService
  | prioMask
  | mask
  | pollStatus
  | poll
  | eoi
  | rmxCtrl (k : RmxSource)
  | rmxRequest
  | rmxService
  | rmxLevelMask
  | rmxMask
  | rmxEoi
  | rmxVector
  deriving DecidableEq, Repr

/-- The offsets that do not depend on the controller's mode (R64, R75, R88). -/
def commonMap : List (Nat × BlockReg) :=
  [(0xFE, .reloc), (0xA0, .umcs), (0xA2, .lmcs), (0xA4, .pacs), (0xA6, .mmcs), (0xA8, .mpcs),
   (0xC0, .dmaSrcLow .c0), (0xC2, .dmaSrcHigh .c0), (0xC4, .dmaDstLow .c0), (0xC6, .dmaDstHigh .c0),
   (0xC8, .dmaCount .c0), (0xCA, .dmaCtrl .c0),
   (0xD0, .dmaSrcLow .c1), (0xD2, .dmaSrcHigh .c1), (0xD4, .dmaDstLow .c1), (0xD6, .dmaDstHigh .c1),
   (0xD8, .dmaCount .c1), (0xDA, .dmaCtrl .c1),
   (0x50, .tmrCount .t0), (0x52, .tmrMaxA .t0), (0x54, .tmrMaxB .t0), (0x56, .tmrMode .t0),
   (0x58, .tmrCount .t1), (0x5A, .tmrMaxA .t1), (0x5C, .tmrMaxB .t1), (0x5E, .tmrMode .t1),
   (0x60, .tmrCount .t2), (0x62, .tmrMaxA .t2), (0x66, .tmrMode .t2)]

/-- The interrupt controller's offsets in master mode (R100). -/
def masterMap : List (Nat × BlockReg) :=
  [(0x3E, .srcCtrl .i3), (0x3C, .srcCtrl .i2), (0x3A, .srcCtrl .i1), (0x38, .srcCtrl .i0),
   (0x36, .srcCtrl .d1), (0x34, .srcCtrl .d0), (0x32, .srcCtrl .tmr), (0x30, .intStatus),
   (0x2E, .intRequest), (0x2C, .inService), (0x2A, .prioMask), (0x28, .mask), (0x26, .pollStatus),
   (0x24, .poll), (0x22, .eoi)]

/-- The interrupt controller's offsets in iRMX 86 mode (R116). -/
def rmxMap : List (Nat × BlockReg) :=
  [(0x3A, .rmxCtrl .t2), (0x38, .rmxCtrl .t1), (0x36, .rmxCtrl .d1), (0x34, .rmxCtrl .d0),
   (0x32, .rmxCtrl .t0), (0x30, .intStatus), (0x2E, .rmxRequest), (0x2C, .rmxService),
   (0x2A, .rmxLevelMask), (0x28, .rmxMask), (0x22, .rmxEoi), (0x20, .rmxVector)]

/-- The register at an offset (R64); none where the block has no register. -/
def blockReg (rmx : Bool) (off : Byte) : Option BlockReg :=
  (commonMap ++ if rmx then rmxMap else masterMap).lookup off.toNat

/-- The RMX bit (R62). -/
def State.rmx (s : State) : Bool := s.reloc.getLsbD 14

/-! ### DMA registers -/

/-- A channel. -/
def DmaUnit.get (d : DmaUnit) : Channel → DmaChannel
  | .c0 => d.ch0
  | .c1 => d.ch1

/-- A channel replaced. -/
def DmaUnit.set (d : DmaUnit) (c : Channel) (x : DmaChannel) : DmaUnit :=
  match c with
  | .c0 => { d with ch0 := x }
  | .c1 => { d with ch1 := x }

/-- A channel of the state. -/
def State.chan (s : State) (c : Channel) : DmaChannel := s.dma.get c

/-- A channel of the state replaced. -/
def State.setChan (s : State) (c : Channel) (x : DmaChannel) : State := { s with dma := s.dma.set c x }

/-- The SYN field of a control word (R78). -/
def synField (ctrl : Word) : BitVec 2 := ctrl.extractLsb' 6 2

/-- A write to a DMA control word (R78): bit 1 changes only with bit 2 set; bits 3 and 2 are not stored.
A channel that this starts, or leaves started, with SYN = 11 is refused by the caller (U14). -/
def writeCtrl (old v : Word) : Word :=
  (v &&& 0xFFF1#16) ||| (if v.getLsbD 2 then v &&& 0x0002#16 else old &&& 0x0002#16)

/-- The low word of a pointer written (R76). -/
def setLow (p : Addr) (v : Word) : Addr := p.extractLsb' 16 4 ++ v

/-- Bits 19 to 16 of a pointer written (R76). -/
def setHigh (p : Addr) (v : Word) : Addr := v.extractLsb' 0 4 ++ p.extractLsb' 0 16

/-- The upper word of a pointer as it reads: bits 15 to 4 are unspecified (R76, U13). -/
def State.highWord (s : State) (p : Addr) : Word := s.freeWord.extractLsb' 4 12 ++ p.extractLsb' 16 4

/-! ### Reading -/

/-- A register read; the value and the state after (R60, R61). Poll has a side effect (R147, R512);
unspecified bits are drawn (U13, R109). -/
def State.readReg (s : State) : BlockReg → Word × State
  | .reloc => (s.reloc, s)
  | .umcs => (s.chip.umcs, s)
  | .lmcs => (s.chip.lmcs, s)
  | .pacs => (s.chip.pacs, s)
  | .mmcs => (s.chip.mmcs, s)
  | .mpcs => (s.chip.mpcs, s)
  | .dmaSrcLow c => ((s.chan c).src.extractLsb' 0 16, s)
  | .dmaSrcHigh c => (s.highWord (s.chan c).src, s.drawn 1)
  | .dmaDstLow c => ((s.chan c).dst.extractLsb' 0 16, s)
  | .dmaDstHigh c => (s.highWord (s.chan c).dst, s.drawn 1)
  | .dmaCount c => ((s.chan c).count, s)
  | .dmaCtrl c => ((s.chan c).ctrl, s)
  | .tmrCount t => ((s.timers.get t).count, s)
  | .tmrMaxA t => ((s.timers.get t).maxA, s)
  | .tmrMaxB t => ((s.timers.get t).maxB, s)
  | .tmrMode t => ((s.timers.get t).modeWord, s)
  | .srcCtrl k => (s.intc.controlWord k, s)
  | .intStatus => (s.intc.statusWord, s)
  | .intRequest => (sourceWord s.intRequest, s)
  | .inService => (sourceWord fun k => (s.intc.source k).isv, s)
  | .prioMask => (0#13 ++ s.intc.prm, s)
  | .mask => (sourceWord fun k => (s.intc.source k).msk, s)
  | .pollStatus => s.readPollStatus
  | .poll => s.readPoll
  | .eoi => (s.freeWord, s.drawn 1)
  | .rmxCtrl k => (s.intc.rmxControlWord k, s)
  | .rmxRequest => (rmxWord s.intc.rmxRequest, s)
  | .rmxService => (rmxWord fun k => (s.intc.rmxSource k).isv, s)
  | .rmxLevelMask => (0#13 ++ s.intc.rMask, s)
  | .rmxMask => (rmxWord fun k => (s.intc.rmxSource k).msk, s)
  | .rmxEoi => (s.freeWord, s.drawn 1)
  | .rmxVector => (0#8 ++ s.intc.ivr, s)

/-- A word read at an offset of the block; a place with no register reads a free word (R64, U11). -/
def State.readBlock (s : State) (off : Byte) : Word × State :=
  match blockReg s.rmx off with
  | some r => s.readReg r
  | none => (s.freeWord, s.drawn 1)

/-! ### Writing -/

/-- The relocation register written (R62, R63): bits 19 to 16 of a base in I/O space must be 0 (U10); a
change of bit 14 changes the controller's mode (R520). -/
def State.writeReloc (s : State) (v : Word) : Out :=
  if !v.getLsbD 12 && decide (v.extractLsb' 8 4 ≠ 0) then .refused .relocationIOHigh
  else if v.getLsbD 14 = s.rmx then .next { s with reloc := v }
  else .next { s.scrambleIntc with reloc := v }

/-- A timer replaced. -/
def State.setTimer (s : State) (k : TimerId) (t : Timer) : State :=
  { s with timers := s.timers.set k t }

/-- A register written (R60). -/
def State.writeReg (s : State) (r : BlockReg) (v : Word) : Out :=
  match r with
  | .reloc => s.writeReloc v
  | .umcs => .next { s with chip := { s.chip with umcs := v } }
  | .lmcs => .next { s with chip := { s.chip with lmcs := v, lmcsOn := true } }
  | .pacs => .next { s with chip := { s.chip with pacs := v ||| 0x0038#16, pacsOn := true } }
  | .mmcs => .next { s with chip := { s.chip with mmcs := v ||| 0x01F8#16, mmcsOn := true } }
  | .mpcs => .next { s with chip := { s.chip with mpcs := v ||| 0x8038#16, mpcsOn := true } }
  | .dmaSrcLow c => .next (s.setChan c { s.chan c with src := setLow (s.chan c).src v })
  | .dmaSrcHigh c => .next (s.setChan c { s.chan c with src := setHigh (s.chan c).src v })
  | .dmaDstLow c => .next (s.setChan c { s.chan c with dst := setLow (s.chan c).dst v })
  | .dmaDstHigh c => .next (s.setChan c { s.chan c with dst := setHigh (s.chan c).dst v })
  | .dmaCount c => .next (s.setChan c { s.chan c with count := v })
  | .dmaCtrl c =>
    let ctrl := writeCtrl (s.chan c).ctrl v
    if ctrl.getLsbD 1 && decide (synField ctrl = 3) then .refused .dmaSynUnused
    else .next (s.setChan c { s.chan c with ctrl := ctrl })
  | .tmrCount t => .next (s.setTimer t { s.timers.get t with count := v })
  | .tmrMaxA t => .next (s.setTimer t { s.timers.get t with maxA := v })
  | .tmrMaxB t => .next (s.setTimer t { s.timers.get t with maxB := v })
  | .tmrMode t => .next (s.setTimer t ((s.timers.get t).writeMode t v))
  | .srcCtrl k =>
    if sfnmAlone k v then .refused .sfnmWithoutCascade
    else .next { s with intc := s.intc.writeControl k v }
  | .intStatus => .next { s with intc := s.intc.writeStatus v }
  | .intRequest => .next { s with intc := { s.intc with irD0 := v.getLsbD 2, irD1 := v.getLsbD 3 } }
  | .inService => .next { s with intc := s.intc.writeService v }
  | .prioMask => .next { s with intc := { s.intc with prm := v.extractLsb' 0 3 } }
  | .mask => .next { s with intc := s.intc.writeMask v }
  | .pollStatus => .next s
  | .poll => .next s
  | .eoi => .next { s with intc := s.intc.eoi v }
  | .rmxCtrl k =>
    if v.extractLsb' 0 3 = k.levelOf then .next { s with intc := s.intc.writeRmxControl k v }
    else .refused .irmxLevel
  | .rmxRequest => .next { s with intc := s.intc.writeRmxRequest v }
  | .rmxService => .next { s with intc := s.intc.writeRmxService v }
  | .rmxLevelMask => .next { s with intc := { s.intc with rMask := v.extractLsb' 0 3 } }
  | .rmxMask => .next { s with intc := s.intc.writeRmxMask v }
  | .rmxEoi => .next { s with intc := s.intc.rmxEoi v }
  | .rmxVector => .next { s with intc := { s.intc with ivr := v.extractLsb' 0 8 &&& 0xF8#8 } }

/-- A word written at an offset of the block; a place with no register refuses it (R64, U11). -/
def State.writeBlock (s : State) (off : Byte) (v : Word) : Out :=
  match blockReg s.rmx off with
  | some r => s.writeReg r v
  | none => .refused .blockHoleWrite

end Sys2Proof.Machine
end

