-- ==== Sys2Proof/Machine/Bus.lean ====
section
/-! DEFINITION. One bus cycle of any agent: what the platform has at an address or port (R10, D3), the bytes it
presents and takes, an external master's cycles (R600), and the two byte cycles of a word at an odd address (R141,
R146, R150), which an external master or RES may come between. -/

namespace Sys2Proof.Machine

/-! ### What the platform has -/

/-- What a memory map has at an address; RAM where no range holds it (log 43). -/
def placeIn : List MemRange → Nat → Place
  | [], _ => .ram
  | r :: rest, a => if r.first ≤ a ∧ a ≤ r.last then r.place else placeIn rest a

/-- Whether an I/O map has a device at a port; it has where no range holds it (log 43). -/
def deviceIn : List PortRange → Nat → Bool
  | [], _ => true
  | r :: rest, p => if r.first ≤ p ∧ p ≤ r.last then r.device else deviceIn rest p

/-- What is at an address of memory (`MEMORY_MAP`). -/
def State.place (s : State) (a : Addr) : Place := placeIn s.memMap a.toNat

/-- Whether a memory access of a width reaches an address where the platform has nothing (D3). -/
def State.vacant (s : State) (w : Width) (a : Addr) : Bool :=
  decide (s.place a = .nothing) || (decide (w = .word) && decide (s.place (a + 1) = .nothing))

/-- Whether a port access of a width reaches a port where the platform has no device (`IO_MAP`, D3). -/
def State.vacantPort (s : State) (w : Width) (p : Word) : Bool :=
  !deviceIn s.ioMap p.toNat || (decide (w = .word) && !deviceIn s.ioMap (p + 1).toNat)

/-! ### Bytes at an address -/

/-- The byte a device in memory space presents: what the host has said, else the free value of a draw (D3; log 43). -/
def State.deviceByteAt (s : State) (draw : Nat) (a : Addr) : Byte :=
  match portLookup s.memDevices a.toNat with
  | some b => b
  | none => Config.memDeviceByte draw a

/-- A read of a device in memory space: each draws one free value. -/
def State.memDevice (s : State) (a : Addr) : Byte × State := (s.deviceByteAt s.free a, s.drawn 1)

/-- A byte reaches a device in memory space. -/
def State.logMem (s : State) (a : Addr) (v : Byte) : State :=
  { s with memLog := { addr := a, value := v } :: s.memLog }

/-- The byte the platform presents at an address. -/
def State.presentByte (s : State) (a : Addr) : Byte × State :=
  match s.place a with
  | .device => s.memDevice a
  | _ => (s.loadByte a, s)

/-- The word the platform presents at an address, low byte first (R135). -/
def State.presentWord (s : State) (a : Addr) : Word × State :=
  let lo := s.presentByte a
  let hi := lo.2.presentByte (a + 1)
  (wordOfBytes lo.1 hi.1, hi.2)

/-- A byte driven at an address: RAM keeps it, ROM does not, a device takes it (D3; log 43). -/
def State.driveByte (s : State) (a : Addr) (v : Byte) : State :=
  match s.place a with
  | .ram => s.storeByte a v
  | .device => s.logMem a v
  | _ => s

/-- A word driven at an address likewise (R135). That a device in memory space is shown the two bytes as two entries,
the low byte first, at an even address, and at an odd one where the agenda says nothing else, is the model's choice
(R141, D10; log 43). -/
def State.driveWord (s : State) (a : Addr) (v : Word) : State :=
  (s.driveByte a (Word.low v)).driveByte (a + 1) (Word.high v)

/-! ### Schedule entries between cycles -/

/-- The agenda replaced. -/
def State.setAgenda (s : State) (l : List Turn) : State := { s with agenda := l }

/-- One cycle of an external master. It has no access to the control block (R600, R601), and no cycle where the
platform has nothing (D3). -/
def masterMoves (m : Master) (s : State) : Out :=
  match m with
  | .write a b =>
    if s.blockInMem a then .fault .masterControlBlock
    else if s.vacant .byte a then .fault .unpopulated
    else .next (s.driveByte a b)
  | .out p wide v =>
    if s.blockInIO p || (wide && s.blockInIO (p + 1)) then .fault .masterControlBlock
    else if s.vacantPort (if wide then .word else .byte) p then .fault .unpopulated
    else .next (s.logPort p wide v)

/-- Whether the agenda speaks of the two byte cycles of a word at an odd place, and then whether the high byte moves
first (R141, D10). An external master may come between them if `alone` is false: not inside a locked instruction, nor
inside a DMA transfer (R146, R600, D11). RES always may (R620), and either order is possible everywhere. -/
def State.splits (s : State) (alone odd : Bool) : Option Bool :=
  if odd then
    match s.agenda with
    | .between (.midMaster highFirst _) :: _ => if alone then none else some highFirst
    | .between (.midReset highFirst) :: _ => some highFirst
    | .between (.byteOrder highFirst) :: _ => some highFirst
    | _ => none
  else none

/-- The external masters, and RES, that come between the two byte cycles. -/
def mastersMid (alone : Bool) : List Turn → State → Out
  | .between (.midMaster _ m) :: rest, s =>
    if alone then .next s else andThen (masterMoves m (s.setAgenda rest)) (mastersMid alone rest)
  | .between (.midReset _) :: rest, s => .fault (.res (s.setAgenda rest))
  | _, s => .next s

/-- What comes between the two byte cycles. An entry that only gives their order is used up; one behind a master that
came between is the next word's. -/
def interposeMid (alone : Bool) (l : List Turn) (s : State) : Out :=
  match l with
  | .between (.byteOrder _) :: rest => .next (s.setAgenda rest)
  | _ => mastersMid alone l s

/-! ### Words -/

/-- A word of memory read: one cycle, or at an odd address two byte cycles (R140, R141, R146). -/
def wordReadCycles (alone : Bool) (a : Addr) (s : State) : Res Word :=
  match s.splits alone (a.getLsbD 0) with
  | none => .next (s.presentWord a)
  | some true =>
    let hi := s.presentByte (a + 1)
    andThen (interposeMid alone hi.2.agenda hi.2) fun s =>
      .next (wordOfBytes (s.presentByte a).1 hi.1, (s.presentByte a).2)
  | some false =>
    let lo := s.presentByte a
    andThen (interposeMid alone lo.2.agenda lo.2) fun s =>
      .next (wordOfBytes lo.1 (s.presentByte (a + 1)).1, (s.presentByte (a + 1)).2)

/-- A word of memory written likewise. -/
def wordWriteCycles (alone : Bool) (a : Addr) (v : Word) (s : State) : Out :=
  match s.splits alone (a.getLsbD 0) with
  | none => .next (s.driveWord a v)
  | some true =>
    andThen (interposeMid alone s.agenda (s.driveByte (a + 1) (Word.high v))) fun s =>
      .next (s.driveByte a (Word.low v))
  | some false =>
    andThen (interposeMid alone s.agenda (s.driveByte a (Word.low v))) fun s =>
      .next (s.driveByte (a + 1) (Word.high v))

/-- A word read at the ports p and p + 1 modulo 2^16 (R150). That the second byte of a word at port FFFFH is at port
0000H is the model's choice (log 6). -/
def portReadCycles (alone : Bool) (p : Word) (s : State) : Res Word :=
  match s.splits alone (p.getLsbD 0) with
  | none => .next (wordOfBytes (s.devicePort p).1 ((s.devicePort p).2.devicePort (p + 1)).1,
      ((s.devicePort p).2.devicePort (p + 1)).2)
  | some true =>
    let hi := s.devicePort (p + 1)
    andThen (interposeMid alone hi.2.agenda hi.2) fun s =>
      .next (wordOfBytes (s.devicePort p).1 hi.1, (s.devicePort p).2)
  | some false =>
    let lo := s.devicePort p
    andThen (interposeMid alone lo.2.agenda lo.2) fun s =>
      .next (wordOfBytes lo.1 (s.devicePort (p + 1)).1, (s.devicePort (p + 1)).2)

/-- A word written at the ports p and p + 1 likewise. It is one entry of the record, unless the agenda speaks of
its byte cycles, which then stand there in their order (log 6). -/
def portWriteCycles (alone : Bool) (p : Word) (v : Word) (s : State) : Out :=
  match s.splits alone (p.getLsbD 0) with
  | none => .next (s.logPort p true v)
  | some true =>
    andThen (interposeMid alone s.agenda (s.logPort (p + 1) false ((Word.high v).setWidth 16))) fun s =>
      .next (s.logPort p false ((Word.low v).setWidth 16))
  | some false =>
    andThen (interposeMid alone s.agenda (s.logPort p false ((Word.low v).setWidth 16))) fun s =>
      .next (s.logPort (p + 1) false ((Word.high v).setWidth 16))

end Sys2Proof.Machine
end

