-- ==== Sys2Proof/Machine/Dma.lean ====
section
/-! DEFINITION. The DMA channels: one transfer (R561, R564, R565), and when a channel may make one (R562, R566,
R568). -/

namespace Sys2Proof.Machine

/-! ### The two cycles of a transfer -/

/-- What a memory cycle of a channel is refused for: the control block (U25), and an address with nothing (D3). -/
def dmaMemFault (w : Width) (a : Addr) (s : State) : Option Fault :=
  if s.blockInMem a || (decide (w = .word) && s.blockInMem (a + 1)) then some .dmaControlBlock
  else if s.vacant w a then some .unpopulated
  else none

/-- The fetch cycle in memory (R561). -/
def dmaReadMem (w : Width) (a : Addr) (s : State) : Res (BitVec w.bits) :=
  match dmaMemFault w a s with
  | some r => .fault r
  | none =>
    match w with
    | .byte => .next (s.presentByte a)
    | .word => wordReadCycles true a s

/-- What an I/O cycle of a channel is refused for: pointer bits above 15 (U24), the reserved ports (R151),
the control block (U25), a port with no device (D3). -/
def dmaPortFault (w : Width) (a : Addr) (s : State) : Option Fault :=
  let p : Word := a.extractLsb' 0 16
  let wide := decide (w = .word)
  if a.extractLsb' 16 4 ≠ 0 then some .dmaPortRange
  else if reservedPort p || (wide && reservedPort (p + 1)) then some .dmaReservedPort
  else if s.blockInIO p || (wide && s.blockInIO (p + 1)) then some .dmaControlBlock
  else if s.vacantPort w p then some .unpopulated
  else none

/-- The fetch cycle in I/O space (R561). -/
def dmaReadPort (w : Width) (a : Addr) (s : State) : Res (BitVec w.bits) :=
  match dmaPortFault w a s with
  | some r => .fault r
  | none =>
    match w with
    | .byte => .next (s.devicePort (a.extractLsb' 0 16))
    | .word => portReadCycles true (a.extractLsb' 0 16) s

/-- The store cycle in memory (R561). -/
def dmaWriteMem (w : Width) (a : Addr) (v : BitVec w.bits) (s : State) : Out :=
  match dmaMemFault w a s with
  | some r => .fault r
  | none =>
    match w with
    | .byte => .next (s.driveByte a v)
    | .word => wordWriteCycles true a v s

/-- The store cycle in I/O space (R561). -/
def dmaWritePort (w : Width) (a : Addr) (v : BitVec w.bits) (s : State) : Out :=
  match dmaPortFault w a s with
  | some r => .fault r
  | none =>
    match w with
    | .byte => .next (s.logPort (a.extractLsb' 0 16) false (v.setWidth 16))
    | .word => portWriteCycles true (a.extractLsb' 0 16) v s

/-- RES may come between the fetch and the store (R620); nothing else does (R561). -/
def resetBeforeStore (s : State) : Out :=
  match s.agenda with
  | .between .dmaReset :: rest => .fault (.res (s.setAgenda rest))
  | _ => .next s

/-! ### One transfer -/

/-- The width of a channel's transfers: B/W (R78). -/
def ctrlWidth (ctrl : Word) : Width := if ctrl.getLsbD 0 then .word else .byte

/-- A pointer after a transfer: moved by the element's size, or constant if both or neither of INC and DEC
are set; modulo 2^20 (R561, D4). -/
def movePointer (inc dec : Bool) (w : Width) (p : Addr) : Addr :=
  let n : Addr := match w with
    | .byte => 1
    | .word => 2
  if inc && !dec then p + n else if dec && !inc then p - n else p

/-- Whether the channel stops now: the count has reached zero, and TC = 1 or the channel is
unsynchronized (R564). -/
def terminates (ctrl count : Word) : Bool :=
  decide (count = 0) && (ctrl.getLsbD 9 || decide (synField ctrl = 0))

/-- The channel's request pin (R562). -/
def State.drq (s : State) : Channel → Bool
  | .c0 => s.pins.drq0
  | .c1 => s.pins.drq1

/-- Whether a transfer serves a request of timer 2: a synchronized channel with TDRQ = 1 whose DRQ pin is
LOW (R562, R589; log 23). -/
def State.servesTimer (s : State) (c : Channel) : Bool :=
  let d := s.chan c
  decide (synField d.ctrl ≠ 0) && d.ctrl.getLsbD 4 && !s.drq c

/-- The channel's registers after a transfer of `v` (R561, R564). -/
def DmaChannel.after (d : DmaChannel) (served : Bool) (v : Word) : DmaChannel :=
  let w := ctrlWidth d.ctrl
  let count := d.count - 1
  { src := movePointer (d.ctrl.getLsbD 10) (d.ctrl.getLsbD 11) w d.src
    dst := movePointer (d.ctrl.getLsbD 13) (d.ctrl.getLsbD 14) w d.dst
    count := count
    ctrl := if terminates d.ctrl count then d.ctrl &&& 0xFFFD#16 else d.ctrl
    latch := v
    tmrReqs := if served then d.tmrReqs - 1 else d.tmrReqs
    ran := true }

/-- A channel's request to the interrupt controller (R491). -/
def Intc.dmaRequest (c : Intc) : Channel → Intc
  | .c0 => { c with irD0 := true }
  | .c1 => { c with irD1 := true }

/-- The state after the two cycles of a transfer of `v`: the channel's registers, the alternation and the
relinquished bus, and on termination with INT = 1 the interrupt request (R561, R562, R565, R566). -/
def State.dmaDone (s : State) (c : Channel) (v : Word) : State :=
  let d := s.chan c
  let s' := s.setChan c (d.after (s.servesTimer c) v)
  { s' with
    dma := { s'.dma with last := c, yielded := decide (synField d.ctrl = 2) }
    intc := if terminates d.ctrl (d.count - 1) && d.ctrl.getLsbD 8 then s.intc.dmaRequest c else s.intc }

/-- One transfer of a channel (R561). -/
def dmaTransfer (c : Channel) (s : State) : Out :=
  let d := s.chan c
  let w := ctrlWidth d.ctrl
  if synField d.ctrl = 3 then .fault .dmaSynUnused
  else
    seq ((if d.ctrl.getLsbD 12 then dmaReadMem else dmaReadPort) w d.src s) fun v s =>
    andThen (resetBeforeStore s) fun s =>
    andThen ((if d.ctrl.getLsbD 15 then dmaWriteMem else dmaWritePort) w d.dst v s) fun s =>
    .next (s.dmaDone c (v.setWidth 16))

/-! ### Who may go -/

/-- A request for a synchronized transfer: the pin, or timer 2 with TDRQ = 1 (R562). Requests of timer 2 not yet served
stay counted while TDRQ is clear, SYN is 00 or the channel is stopped, which is the model's choice (log 23). -/
def State.dmaRequested (s : State) (c : Channel) : Bool :=
  s.drq c || ((s.chan c).ctrl.getLsbD 4 && decide ((s.chan c).tmrReqs ≠ 0))

/-- The channel's own conditions for a transfer: ST = 1, DHLT = 0, and a request unless SYN = 00 (R562,
R568). -/
def State.dmaReady (s : State) (c : Channel) : Bool :=
  (s.chan c).ctrl.getLsbD 1 && !s.intc.dhlt &&
    (decide (synField (s.chan c).ctrl = 0) || decide (synField (s.chan c).ctrl = 3) || s.dmaRequested c)

/-- The other channel. -/
def Channel.other : Channel → Channel
  | .c0 => .c1
  | .c1 => .c0

/-- Whether the channel may go while the other one is ready too: P = 1 before P = 0; of equal P the one
that did not make the previous transfer, or either until both have run (R566). -/
def State.dmaWins (s : State) (c : Channel) : Bool :=
  let p := (s.chan c).ctrl.getLsbD 5
  let q := (s.chan c.other).ctrl.getLsbD 5
  if p = q then
    decide (s.dma.last ≠ c) || !s.dma.ch0.ran || !s.dma.ch1.ran
  else p

/-- Whether the channel may make the next transfer, the bus being free for one (R562, R566). -/
def State.dmaMayGo (s : State) (c : Channel) : Bool :=
  s.dmaReady c && (!s.dmaReady c.other || s.dmaWins c)

end Sys2Proof.Machine
end

