-- ==== Sys2Proof/Machine/Between.lean ====
section
/-! DEFINITION. What comes between two data cycles of the CPU in one step: the outside world and the timers (R530, R581),
a DMA channel or an external master, which LOCK keeps away (R146, R152, R567, R600), and RES (R620). -/

namespace Sys2Proof.Machine

/-! ### The outside world -/

/-- A pin goes to a level (R530): a rising NMI sets the latch (R475), an INT pin seen LOW is armed (R492),
a rising timer input is an edge while the timer is enabled (R582). -/
def State.setPin (s : State) (p : Pin) (high : Bool) : State :=
  match p with
  | .nmi => { s with pins := { s.pins with nmi := high }, nmiLatch := s.nmiLatch || (high && !s.pins.nmi) }
  | .int0 => { s with pins := { s.pins with int0 := high }
                      intc := { s.intc with armed0 := s.intc.armed0 || !high } }
  | .int1 => { s with pins := { s.pins with int1 := high }
                      intc := { s.intc with armed1 := s.intc.armed1 || !high } }
  | .int2 => { s with pins := { s.pins with int2 := high }
                      intc := { s.intc with armed2 := s.intc.armed2 || !high } }
  | .int3 => { s with pins := { s.pins with int3 := high }
                      intc := { s.intc with armed3 := s.intc.armed3 || !high } }
  | .drq0 => { s with pins := { s.pins with drq0 := high } }
  | .drq1 => { s with pins := { s.pins with drq1 := high } }
  | .tmrIn0 => { s with pins := { s.pins with tmrIn0 := high }
                        timers := { s.timers with
                          t0 := { s.timers.t0 with
                            edge := s.timers.t0.edge || (high && !s.pins.tmrIn0 && s.timers.t0.en) } } }
  | .tmrIn1 => { s with pins := { s.pins with tmrIn1 := high }
                        timers := { s.timers with
                          t1 := { s.timers.t1 with
                            edge := s.timers.t1.edge || (high && !s.pins.tmrIn1 && s.timers.t1.en) } } }
  | .test => { s with pins := { s.pins with test := high } }
  | .hold => { s with pins := { s.pins with hold := high } }

/-- What a timer or the outside world does (R530, R581). -/
def State.world (s : State) (w : World) : State :=
  match w with
  | .slot t => s.timerSlot t
  | .pin p high => s.setPin p high
  | .inta b => { s with intaByte := b }
  | .device p b => { s with ports := portSet s.ports p.toNat b }
  | .memDevice a b => { s with memDevices := portSet s.memDevices a.toNat b }

/-! ### Between two data cycles -/

/-- Whether the entry raises HOLD (R600). -/
def World.raisesHold : World → Bool
  | .pin .hold high => high
  | _ => false

/-- Whether HOLD falls, or RES ends the step, among the entries that come before the next data cycle. -/
def holdReleased : List Turn → Bool
  | .between (.world (.pin .hold false)) :: _ => true
  | .between .reset :: _ => true
  | .between (.world _) :: rest => holdReleased rest
  | .between (.dma _) :: rest => holdReleased rest
  | .between (.master _) :: rest => holdReleased rest
  | _ => false

/-- Whether a rise of HOLD comes too late for this cycle: the bus would be granted before it (R600), so that it goes
only where HOLD falls again or RES ends the step; else HOLD rises after the cycle (log 8). A locked instruction grants
nothing, and its cycles go whatever HOLD is. -/
def holdTooLate (lock : Bool) (w : World) (rest : List Turn) : Bool := !lock && w.raisesHold && !holdReleased rest

/-- The entries at the head of the agenda that come before a data cycle of the CPU, up to one that lets it pass. A
locked instruction holds DMA channels and external masters back; HOLD holds DMA channels back (R567). An order of byte
cycles that a DMA transfer has used, and so is off the agenda, is passed over, so that what follows it still comes
before the cycle; one that is still there is the CPU's own (R141). -/
def interposeAll (lock : Bool) : List Turn → State → Out
  | .between .pass :: rest, s => .next (s.setAgenda rest)
  | .between .reset :: rest, s => .fault (.res (s.setAgenda rest))
  | .between (.world w) :: rest, s =>
    if holdTooLate lock w rest then .next s else interposeAll lock rest ((s.setAgenda rest).world w)
  | .between (.dma c) :: rest, s =>
    if lock then .next s
    else andThen (if !s.pins.hold && s.dmaMayGo c then dmaTransfer c (s.setAgenda rest) else .next (s.setAgenda rest))
      (interposeAll lock rest)
  | .between (.master m) :: rest, s =>
    if lock then .next s else andThen (masterMoves m (s.setAgenda rest)) (interposeAll lock rest)
  | .between (.byteOrder _) :: rest, s =>
    if s.agenda.length ≤ rest.length then interposeAll lock rest s else .next s
  | _, s => .next s

/-- What comes before a data cycle of the CPU (R146, R152, R567, R600, R620; log 8). -/
def interpose (s : State) : Out := interposeAll s.pfx.lock s.agenda s

/-- The entries that LOCK holds back: those of other users of the bus (R152). -/
def Between.heldByLock : Between → Bool
  | .dma _ => true
  | .master _ => true
  | .midMaster _ _ => true
  | .pass => false
  | .world _ => false
  | .reset => false
  | .midReset _ => false
  | .byteOrder _ => false
  | .dmaReset => false
  | .pushesFirst => false

/-- Nothing comes between the bus cycles of the instruction under way: the agenda has no such entry next, or only one
that LOCK holds back (R152). -/
def State.undisturbed (s : State) : Bool :=
  match s.agenda with
  | .between b :: _ => s.pfx.lock && b.heldByLock
  | _ => true

/-- No RES comes inside the DMA transfer under way, and nothing is said of the order of its byte cycles. -/
def State.uncut (s : State) : Bool :=
  match s.agenda with
  | .between .dmaReset :: _ => false
  | .between (.midReset _) :: _ => false
  | .between (.byteOrder _) :: _ => false
  | _ => true

end Sys2Proof.Machine
end

