-- ==== Sys2Proof/Machine/Ops.lean ====
section
/-! DEFINITION. The shared operations: bus cycles to memory and ports (R15, R61, R65, R135 to R151), segment
accesses (R142), the stack (R228, R233), control transfers (R16, R161), taking an interrupt or exception
(R470) and the return from one (R397). -/

namespace Sys2Proof.Machine

/-! ### Bus cycles -/

/-- One memory read cycle (R135, R140): the internal register where the address lies in the control block
(R61), which takes aligned words only (R65), else what the platform presents (D3). -/
def memReadCycle (w : Width) (a : Addr) (s : State) : Res (BitVec w.bits) :=
  match w with
  | .byte =>
    if s.blockInMem a then .refused .blockAccess
    else if s.vacant .byte a then .refused .unpopulated
    else .next (s.presentByte a)
  | .word =>
    if s.blockInMem a || s.blockInMem (a + 1) then
      if a.getLsbD 0 then .refused .blockAccess else .next (s.readBlock (a.extractLsb' 0 8))
    else if s.vacant .word a then .refused .unpopulated
    else wordReadCycles s.pfx.lock a s

/-- One memory write cycle (R135, R140): in the control block it reaches the internal register and what the
platform has there (R61). -/
def memWriteCycle (w : Width) (a : Addr) (v : BitVec w.bits) (s : State) : Out :=
  match w with
  | .byte =>
    if s.blockInMem a then .refused .blockAccess
    else if s.vacant .byte a then .refused .unpopulated
    else .next (s.driveByte a v)
  | .word =>
    if s.blockInMem a || s.blockInMem (a + 1) then
      if a.getLsbD 0 then .refused .blockAccess else (s.driveWord a v).writeBlock (a.extractLsb' 0 8) v
    else if s.vacant .word a then .refused .unpopulated
    else wordWriteCycles s.pfx.lock a v s

/-- One I/O read cycle (R150): ports p and, for a word, p + 1 modulo 2^16 (log 6). -/
def ioReadCycle (w : Width) (p : Word) (s : State) : Res (BitVec w.bits) :=
  match w with
  | .byte =>
    if reservedPort p then .refused .reservedPort
    else if s.blockInIO p then .refused .blockAccess
    else if s.vacantPort .byte p then .refused .unpopulated
    else .next (s.devicePort p)
  | .word =>
    if reservedPort p || reservedPort (p + 1) then .refused .reservedPort
    else if s.blockInIO p || s.blockInIO (p + 1) then
      if p.getLsbD 0 then .refused .blockAccess else .next (s.readBlock (p.extractLsb' 0 8))
    else if s.vacantPort .word p then .refused .unpopulated
    else portReadCycles s.pfx.lock p s

/-- One I/O write cycle (R150), at the same ports; in the control block it is also driven outside (R61). -/
def ioWriteCycle (w : Width) (p : Word) (v : BitVec w.bits) (s : State) : Out :=
  match w with
  | .byte =>
    if reservedPort p then .refused .reservedPort
    else if s.blockInIO p then .refused .blockAccess
    else if s.vacantPort .byte p then .refused .unpopulated
    else .next (s.logPort p false (v.setWidth 16))
  | .word =>
    if reservedPort p || reservedPort (p + 1) then .refused .reservedPort
    else if s.blockInIO p || s.blockInIO (p + 1) then
      if p.getLsbD 0 then .refused .blockAccess
      else (s.logPort p true v).writeBlock (p.extractLsb' 0 8) v
    else if s.vacantPort .word p then .refused .unpopulated
    else portWriteCycles s.pfx.lock p v s

/-- `MemRead` (R15), after what other bus agents do before it. -/
def memRead (w : Width) (a : Addr) (s : State) : Res (BitVec w.bits) :=
  andThen (interpose s) (memReadCycle w a)

/-- `MemWrite` (R15), likewise. -/
def memWrite (w : Width) (a : Addr) (v : BitVec w.bits) (s : State) : Out :=
  andThen (interpose s) (memWriteCycle w a v)

/-- `IORead` (R15), likewise. -/
def ioRead (w : Width) (p : Word) (s : State) : Res (BitVec w.bits) :=
  andThen (interpose s) (ioReadCycle w p)

/-- `IOWrite` (R15), likewise. -/
def ioWrite (w : Width) (p : Word) (v : BitVec w.bits) (s : State) : Out :=
  andThen (interpose s) (ioWriteCycle w p v)

/-! ### Segment accesses -/

/-- The two bytes of a word read one after the other, the second at another address (R142, `wrap`). -/
def memReadSplit (a b : Addr) (s : State) : Res Word :=
  seq (memRead .byte a s) fun lo s => seq (memRead .byte b s) fun hi s => .next (wordOfBytes lo hi, s)

/-- Likewise written. -/
def memWriteSplit (a b : Addr) (v : Word) (s : State) : Out :=
  andThen (memWrite .byte a (Word.low v) s) fun s => memWrite .byte b (Word.high v) s

/-- `ReadSeg` (R15): a word at offset FFFFH is treated by R142. -/
def readSeg (w : Width) (seg off : Word) (s : State) : Res (BitVec w.bits) :=
  match w with
  | .byte => memRead .byte (phys seg off) s
  | .word =>
    if off = 0xFFFF#16 then
      match Config.wordAtFFFF with
      | .refuse => .refused .wordAtFFFF
      | .wrap => memReadSplit (phys seg off) (phys seg 0) s
      | .onward => memRead .word (phys seg off) s
    else memRead .word (phys seg off) s

/-- `WriteSeg` (R15): a word at offset FFFFH is treated by R142. -/
def writeSeg (w : Width) (seg off : Word) (v : BitVec w.bits) (s : State) : Out :=
  match w with
  | .byte => memWrite .byte (phys seg off) v s
  | .word =>
    if off = 0xFFFF#16 then
      match Config.wordAtFFFF with
      | .refuse => .refused .wordAtFFFF
      | .wrap => memWriteSplit (phys seg off) (phys seg 0) v s
      | .onward => memWrite .word (phys seg off) v s
    else memWrite .word (phys seg off) v s

/-- A 32-bit pointer: offset word, then segment word (R137). One whose offset is FFFDH to FFFFH does not
lie within the segment (R142; log 30). -/
def readPointer (seg off : Word) (s : State) : Res (Word × Word) :=
  if off.toNat ≥ 0xFFFD then
    match Config.wordAtFFFF with
    | .refuse => .refused .wordAtFFFF
    | .wrap => seq (readSeg .word seg off s) fun o s => seq (readSeg .word seg (off + 2) s) fun b s =>
        .next ((o, b), s)
    | .onward => seq (memRead .word (phys seg off) s) fun o s =>
        seq (memRead .word (phys seg off + 2) s) fun b s => .next ((o, b), s)
  else seq (readSeg .word seg off s) fun o s => seq (readSeg .word seg (off + 2) s) fun b s =>
    .next ((o, b), s)

/-! ### Registers the shared operations write -/

/-- SP replaced. -/
def State.setSp (s : State) (v : Word) : State := { s with regs := { s.regs with sp := v } }

/-- BP replaced. -/
def State.setBp (s : State) (v : Word) : State := { s with regs := { s.regs with bp := v } }

/-- CX replaced. -/
def State.setCx (s : State) (v : Word) : State := { s with regs := { s.regs with cx := v } }

/-- SI replaced. -/
def State.setSi (s : State) (v : Word) : State := { s with regs := { s.regs with si := v } }

/-- DI replaced. -/
def State.setDi (s : State) (v : Word) : State := { s with regs := { s.regs with di := v } }

/-- CS replaced. -/
def State.setCs (s : State) (v : Word) : State := { s with segs := { s.segs with cs := v } }

/-- The flags replaced. -/
def State.setFlags (s : State) (f : Flags) : State := { s with flags := f }

/-! ### The stack -/

/-- `Push` (R228). -/
def push (v : Word) (s : State) : Out :=
  writeSeg .word s.segs.ss (s.regs.sp - 2) v (s.setSp (s.regs.sp - 2))

/-- `Pop` (R233). -/
def pop (s : State) : Res Word :=
  seq (readSeg .word s.segs.ss s.regs.sp s) fun v s => .next (v, s.setSp (s.regs.sp + 2))

/-! ### The status word -/

/-- The status word as it reads: bit 1 and bits 15 to 12 are 1, bits 3 and 5 are 0 (R35, R36). -/
def Flags.image (f : Flags) : Word :=
  0xF#4 ++ BitVec.ofBool f.ofl ++ BitVec.ofBool f.df ++ BitVec.ofBool f.ifl ++ BitVec.ofBool f.tf ++
    BitVec.ofBool f.sf ++ BitVec.ofBool f.zf ++ 0#1 ++ BitVec.ofBool f.af ++ 0#1 ++
    BitVec.ofBool f.pf ++ 1#1 ++ BitVec.ofBool f.cf

/-- The nine flags of a word written to the status word (R36, R252). -/
def Flags.ofImage (v : Word) : Flags :=
  { cf := v.getLsbD 0, pf := v.getLsbD 2, af := v.getLsbD 4, zf := v.getLsbD 6, sf := v.getLsbD 7,
    tf := v.getLsbD 8, ifl := v.getLsbD 9, df := v.getLsbD 10, ofl := v.getLsbD 11 }

/-! ### Control transfers and interrupts -/

/-- `IP <- t`: a control transfer within the segment empties the prefetch queue (R16, R161). -/
def State.jump (s : State) (ip : Word) : State := { s with ip := ip, stale := [] }

/-- `CS <- seg; IP <- t` (R16, R161). -/
def State.farJump (s : State) (seg ip : Word) : State := (s.setCs seg).jump ip

/-- IF and TF cleared (R470). -/
def State.maskTraps (s : State) : State := { s with flags := { s.flags with ifl := false, tf := false } }

/-- Nothing of an instruction is pending any more: its prefixes are used up and the CPU runs (R361, R440,
R441). -/
def State.leaveInstruction (s : State) : State := { s with pfx := .none, activity := .running }

/-- The address in entry n of the vector table: its offset word and its segment word (R462, R470). -/
def readVector (n : Byte) (s : State) : Res (Word × Word) :=
  seq (memRead .word (n.setWidth 20 <<< 2) s) fun newIp s =>
  seq (memRead .word ((n.setWidth 20 <<< 2) + 2) s) fun newCs s => .next ((newIp, newCs), s)

/-- FLAGS, CS and the return offset are pushed; IF and TF are cleared (R470). -/
def saveContext (ret : Word) (s : State) : Out :=
  andThen (push s.flags.image s) fun s => andThen (push s.segs.cs s.maskTraps) fun s => push ret s

/-- The interrupt sequence in the order of D30: the table is read before the pushes. -/
def tableThenPushes (n : Byte) (ret : Word) (s : State) : Out :=
  seq (readVector n s) fun v s => andThen (saveContext ret s) fun s =>
  .next (s.farJump v.2 v.1).leaveInstruction

/-- The interrupt sequence in the other order that R470 admits where another agent can see it. -/
def pushesThenTable (n : Byte) (ret : Word) (s : State) : Out :=
  andThen (saveContext ret s) fun s => seq (readVector n s) fun v s =>
  .next (s.farJump v.2 v.1).leaveInstruction

/-- `Interrupt(n, ret)` (R470): the table entry is read, FLAGS, CS and the return offset are pushed, IF and TF are
cleared, and control goes to the entry's address. The table comes first (D30), unless the agenda says that the agents
watching the bus see the pushes first; that the agenda decides is the model's choice (log 42). -/
def interrupt (n : Byte) (ret : Word) (s : State) : Out :=
  match s.agenda with
  | .between .pushesFirst :: rest => pushesThenTable n ret (s.setAgenda rest)
  | _ => tableThenPushes n ret s

/-- The return from an interrupt (R397): IP, CS and FLAGS are popped and DHLT is cleared (R108). -/
def returnFromInterrupt (s : State) : Out :=
  seq (pop s) fun ip s => seq (pop s) fun cs s => seq (pop s) fun v s =>
  .next (({ s with flags := Flags.ofImage v, intc := { s.intc with dhlt := false } }).farJump cs ip)

end Sys2Proof.Machine
end

