-- ==== Sys2Proof/Machine/Operands.lean ====
section
/-! DEFINITION. The operand forms: registers (R21, R22, R25), effective addresses and their segments
(R176 to R178), r/m operands (R186), immediates and displacements (R179, R181). -/

namespace Sys2Proof.Machine

/-! ### Registers -/

/-- A 16-bit register by its name (R21). -/
def Regs.get16 (g : Regs) : Reg → Word
  | .ax_al => g.ax
  | .cx_cl => g.cx
  | .dx_dl => g.dx
  | .bx_bl => g.bx
  | .sp_ah => g.sp
  | .bp_ch => g.bp
  | .si_dh => g.si
  | .di_bh => g.di

/-- A 16-bit register written. -/
def Regs.set16 (g : Regs) (r : Reg) (v : Word) : Regs :=
  match r with
  | .ax_al => { g with ax := v }
  | .cx_cl => { g with cx := v }
  | .dx_dl => { g with dx := v }
  | .bx_bl => { g with bx := v }
  | .sp_ah => { g with sp := v }
  | .bp_ch => { g with bp := v }
  | .si_dh => { g with si := v }
  | .di_bh => { g with di := v }

/-- An 8-bit register by its name: a half of AX, CX, DX or BX (R22). -/
def Regs.get8 (g : Regs) : Reg → Byte
  | .ax_al => Word.low g.ax
  | .cx_cl => Word.low g.cx
  | .dx_dl => Word.low g.dx
  | .bx_bl => Word.low g.bx
  | .sp_ah => Word.high g.ax
  | .bp_ch => Word.high g.cx
  | .si_dh => Word.high g.dx
  | .di_bh => Word.high g.bx

/-- The low half of a register replaced (R22). -/
def withLow (x : Word) (v : Byte) : Word := Word.high x ++ v

/-- The high half of a register replaced (R22). -/
def withHigh (x : Word) (v : Byte) : Word := v ++ Word.low x

/-- An 8-bit register written: the other half stays (R22). -/
def Regs.set8 (g : Regs) (r : Reg) (v : Byte) : Regs :=
  match r with
  | .ax_al => { g with ax := withLow g.ax v }
  | .cx_cl => { g with cx := withLow g.cx v }
  | .dx_dl => { g with dx := withLow g.dx v }
  | .bx_bl => { g with bx := withLow g.bx v }
  | .sp_ah => { g with ax := withHigh g.ax v }
  | .bp_ch => { g with cx := withHigh g.cx v }
  | .si_dh => { g with dx := withHigh g.dx v }
  | .di_bh => { g with bx := withHigh g.bx v }

/-- `ReadReg` (R14, R186). -/
def State.getReg (s : State) (w : Width) (r : Reg) : BitVec w.bits :=
  match w with
  | .byte => s.regs.get8 r
  | .word => s.regs.get16 r

/-- `WriteReg` (R14, R186). -/
def State.setReg (s : State) (w : Width) (r : Reg) (v : BitVec w.bits) : State :=
  match w with
  | .byte => { s with regs := s.regs.set8 r v }
  | .word => { s with regs := s.regs.set16 r v }

/-- The accumulator of a width: AL or AX (R23). -/
def State.acc (s : State) (w : Width) : BitVec w.bits := s.getReg w .ax_al

/-- The accumulator written. -/
def State.setAcc (s : State) (w : Width) (v : BitVec w.bits) : State := s.setReg w .ax_al v

/-- A segment register (R25). -/
def Segs.get (g : Segs) : SegReg → Word
  | .es => g.es
  | .cs => g.cs
  | .ss => g.ss
  | .ds => g.ds

/-- A segment register written. -/
def Segs.set (g : Segs) (r : SegReg) (v : Word) : Segs :=
  match r with
  | .es => { g with es := v }
  | .cs => { g with cs := v }
  | .ss => { g with ss := v }
  | .ds => { g with ds := v }

/-- A segment register of the state. -/
def State.getSeg (s : State) (r : SegReg) : Word := s.segs.get r

/-- A segment register of the state written. -/
def State.setSeg (s : State) (r : SegReg) (v : Word) : State := { s with segs := s.segs.set r v }

/-- The one-instruction inhibit of MOV and POP to a segment register, LDS and LES (R47). -/
def State.inhibited (s : State) : State := { s with inhibit := true }

/-! ### Effective addresses -/

/-- The base and index sum of an r/m value (R176). -/
def State.baseSum (s : State) : Base → Word
  | .bxSi => s.regs.bx + s.regs.si
  | .bxDi => s.regs.bx + s.regs.di
  | .bpSi => s.regs.bp + s.regs.si
  | .bpDi => s.regs.bp + s.regs.di
  | .si => s.regs.si
  | .di => s.regs.di
  | .bp => s.regs.bp
  | .bx => s.regs.bx

/-- The effective address, modulo 2^16; an 8-bit displacement is sign-extended (R134, R176). -/
def State.ea (s : State) : MemRef → Word
  | .plain b => s.baseSum b
  | .direct d => d
  | .disp8 b d => s.baseSum b + d.signExtend 16
  | .disp16 b d => s.baseSum b + d

/-- SS when BP is a component, else DS (R177). -/
def baseSegment : Base → SegReg
  | .bpSi => .ss
  | .bpDi => .ss
  | .bp => .ss
  | _ => .ds

/-- The default segment of a memory operand (R177). -/
def memSegment : MemRef → SegReg
  | .plain b => baseSegment b
  | .direct _ => .ds
  | .disp8 b _ => baseSegment b
  | .disp16 b _ => baseSegment b

/-- The segment value in force for an operand whose default is `d`: the override's if there is one
(R178). -/
def State.segment (s : State) (d : SegReg) : Word := s.getSeg (s.pfx.seg.getD d)

/-- The segment value of a memory operand (R177, R178). -/
def State.memSeg (s : State) (m : MemRef) : Word := s.segment (memSegment m)

/-! ### r/m operands -/

/-- Where an operand is: a register, or an offset of a segment. -/
inductive Loc where
  | reg (r : Reg)
  | mem (seg off : Word)
  deriving DecidableEq, Repr

/-- `decode_rm` evaluated: where the operand is, before the instruction changes anything (R176, R186). -/
def State.locate (s : State) : RM → Loc
  | .reg r => .reg r
  | .mem m => .mem (s.memSeg m) (s.ea m)

/-- An operand read at its place. -/
def readLoc (w : Width) (l : Loc) (s : State) : Res (BitVec w.bits) :=
  match l with
  | .reg r => .next (s.getReg w r, s)
  | .mem seg off => readSeg w seg off s

/-- An operand written at its place. -/
def writeLoc (w : Width) (l : Loc) (v : BitVec w.bits) (s : State) : Out :=
  match l with
  | .reg r => .next (s.setReg w r v)
  | .mem seg off => writeSeg w seg off v s

/-- `ReadRM` (R186). -/
def readRM (w : Width) (rm : RM) (s : State) : Res (BitVec w.bits) := readLoc w (s.locate rm) s

/-- `WriteRM` (R186). -/
def writeRM (w : Width) (rm : RM) (v : BitVec w.bits) (s : State) : Out := writeLoc w (s.locate rm) v s

/-! ### Displacements -/

/-- The target of an 8-bit displacement: IP_next plus its sign extension (R181). -/
def State.target8 (s : State) (d : Byte) : Word := s.ip + d.signExtend 16

/-- The target of a 16-bit displacement (R181). -/
def State.target16 (s : State) (d : Word) : Word := s.ip + d

end Sys2Proof.Machine
end

