-- ==== Sys2Proof/Machine/Flags.lean ====
section
/-! DEFINITION. The flag computations: the helpers of R17, the multiplications' and divisions' (R288 to
R293), the decimal adjusts' (R303 to R310), and the shift and rotate steps with theirs (R334 to R342).
A flag a rule calls undefined is a free bit (R16, U5; log 4). -/

namespace Sys2Proof.Machine

/-! ### Sign, zero, parity -/

/-- `parity8` (R17): the low eight bits have an even number of 1-bits. -/
def parity8 {n : Nat} (r : BitVec n) : Bool :=
  !(r.getLsbD 0 ^^ r.getLsbD 1 ^^ r.getLsbD 2 ^^ r.getLsbD 3 ^^ r.getLsbD 4 ^^ r.getLsbD 5 ^^
    r.getLsbD 6 ^^ r.getLsbD 7)

/-- `SetSZP` (R17). -/
def Flags.szp {n : Nat} (f : Flags) (r : BitVec n) : Flags :=
  { f with sf := r.msb, zf := decide (r = 0#n), pf := parity8 r }

/-! ### Addition and subtraction -/

/-- The sum of `add_W(a, b, c)` (R17). -/
def addResult {n : Nat} (a b : BitVec n) (c : Bool) : BitVec n := a + b + (BitVec.ofBool c).setWidth n

/-- The flags of `add_W(a, b, c)` (R17). -/
def Flags.add {n : Nat} (f : Flags) (a b : BitVec n) (c : Bool) : Flags :=
  let r := addResult a b c
  { f.szp r with
    cf := decide (a.toNat + b.toNat + c.toNat ≥ 2 ^ n)
    af := decide (a.toNat % 16 + b.toNat % 16 + c.toNat ≥ 16)
    ofl := decide (a.msb = b.msb) && decide (r.msb ≠ a.msb) }

/-- The difference of `sub_W(a, b, c)` (R17). -/
def subResult {n : Nat} (a b : BitVec n) (c : Bool) : BitVec n := a - b - (BitVec.ofBool c).setWidth n

/-- The flags of `sub_W(a, b, c)`: CF and AF are borrows (R17). -/
def Flags.sub {n : Nat} (f : Flags) (a b : BitVec n) (c : Bool) : Flags :=
  let r := subResult a b c
  { f.szp r with
    cf := decide (a.toNat < b.toNat + c.toNat)
    af := decide (a.toNat % 16 < b.toNat % 16 + c.toNat)
    ofl := decide (a.msb ≠ b.msb) && decide (r.msb ≠ a.msb) }

/-- The flags of an increment: `add_W(a, 1, 0)` with CF as it was (R276). -/
def Flags.inc {n : Nat} (f : Flags) (a : BitVec n) : Flags := { f.add a 1#n false with cf := f.cf }

/-- The flags of a decrement: `sub_W(a, 1, 0)` with CF as it was (R285). -/
def Flags.dec {n : Nat} (f : Flags) (a : BitVec n) : Flags := { f.sub a 1#n false with cf := f.cf }

/-! ### Logic -/

/-- The flags of `logic_W(r)`: CF and OF 0, AF undefined (R17). -/
def State.logicFlags {n : Nat} (s : State) (r : BitVec n) : State :=
  (s.setFlags { s.flags.szp r with cf := false, ofl := false, af := s.freeBit 0 }).drawn 1

/-! ### Multiplication and division -/

/-- The flags of a multiplication: CF and OF as given, SF, ZF, AF, PF undefined (R288 to R291). -/
def State.mulFlags (s : State) (wide : Bool) : State :=
  (s.setFlags { s.flags with cf := wide, ofl := wide, sf := s.freeBit 0, zf := s.freeBit 1,
                             af := s.freeBit 2, pf := s.freeBit 3 }).drawn 4

/-- The flags after a division, with a result or without: the six arithmetic flags undefined (R292, R293). -/
def State.divFlags (s : State) : State :=
  (s.setFlags { s.flags with cf := s.freeBit 0, pf := s.freeBit 1, af := s.freeBit 2,
                             zf := s.freeBit 3, sf := s.freeBit 4, ofl := s.freeBit 5 }).drawn 6

/-! ### Decimal adjusts -/

/-- The flags of AAA and AAS: AF and CF as given, OF, SF, ZF, PF undefined (R303, R304). -/
def State.asciiFlags (s : State) (adjusted : Bool) : State :=
  (s.setFlags { s.flags with cf := adjusted, af := adjusted, ofl := s.freeBit 0, sf := s.freeBit 1,
                             zf := s.freeBit 2, pf := s.freeBit 3 }).drawn 4

/-- The flags of DAA and DAS: AF and CF as given, SF, ZF, PF from AL, OF undefined (R305, R306). -/
def State.decimalFlags (s : State) (af cf : Bool) (al : Byte) : State :=
  (s.setFlags { s.flags.szp al with cf := cf, af := af, ofl := s.freeBit 0 }).drawn 1

/-- The flags of AAM and AAD: SF, ZF, PF from AL, OF, AF, CF undefined (R309, R310). -/
def State.asciiMulFlags (s : State) (al : Byte) : State :=
  (s.setFlags { s.flags.szp al with ofl := s.freeBit 0, af := s.freeBit 1, cf := s.freeBit 2 }).drawn 3

/-! ### Shifts and rotates -/

/-- The seven operations TTT selects (R334). -/
inductive ShiftOp where
  | rol
  | ror
  | rcl
  | rcr
  | shl
  | shr
  | sar
  deriving DecidableEq, Repr

/-- One place left, `b` entering at bit 0. -/
def shiftInLow {n : Nat} (x : BitVec n) (b : Bool) : BitVec n := (x <<< 1) ||| (BitVec.ofBool b).setWidth n

/-- One place right, `b` entering at the high-order bit. -/
def shiftInHigh {n : Nat} (x : BitVec n) (b : Bool) : BitVec n :=
  (x >>> 1) ||| ((BitVec.ofBool b).setWidth n <<< (n - 1))

/-- One step: the operand and CF after it (R335 to R341). -/
def ShiftOp.step {n : Nat} (op : ShiftOp) (x : BitVec n) (c : Bool) : BitVec n × Bool :=
  match op with
  | .rol => (shiftInLow x x.msb, x.msb)
  | .ror => (shiftInHigh x (x.getLsbD 0), x.getLsbD 0)
  | .rcl => (shiftInLow x c, x.msb)
  | .rcr => (shiftInHigh x c, x.getLsbD 0)
  | .shl => (shiftInLow x false, x.msb)
  | .shr => (shiftInHigh x false, x.getLsbD 0)
  | .sar => (shiftInHigh x x.msb, x.getLsbD 0)

/-- `k` steps (R342). -/
def ShiftOp.run {n : Nat} (op : ShiftOp) : Nat → BitVec n → Bool → BitVec n × Bool
  | 0, x, c => (x, c)
  | k + 1, x, c => ShiftOp.run op k (op.step x c).1 (op.step x c).2

/-- The effective count (R334, D12). -/
def shiftCount (count : Byte) : Nat := (count &&& Config.shiftCountMask).toNat

/-- OF after a count of 1: `x` the operand, `r` the result, `c` CF after the step (R335 to R341). -/
def ShiftOp.overflow {n : Nat} (op : ShiftOp) (x r : BitVec n) (c : Bool) : Bool :=
  match op with
  | .rol => r.msb ^^ c
  | .ror => r.msb ^^ r.getMsbD 1
  | .rcl => r.msb ^^ c
  | .rcr => r.msb ^^ r.getMsbD 1
  | .shl => r.msb ^^ c
  | .shr => x.msb
  | .sar => false

/-- Whether the operation is a rotate, which leaves SF, ZF, PF and AF (R335 to R338). -/
def ShiftOp.isRotate : ShiftOp → Bool
  | .rol => true
  | .ror => true
  | .rcl => true
  | .rcr => true
  | _ => false

/-- The flags after a count `k` of 1 or more: OF is defined only for 1; a shift also sets SF, ZF and PF
and leaves AF undefined (R335 to R342). -/
def State.shiftFlags {n : Nat} (s : State) (op : ShiftOp) (k : Nat) (x r : BitVec n) (c : Bool) : State :=
  let ofl := if k = 1 then op.overflow x r c else s.freeBit 0
  let f := if op.isRotate then s.flags else { s.flags.szp r with af := s.freeBit 1 }
  (s.setFlags { f with cf := c, ofl := ofl }).drawn 2

end Sys2Proof.Machine
end

