-- ==== Sys2Proof/Machine/Arith.lean ====
section
/-! DEFINITION. The meanings of the arithmetic instructions (R270 to R310) over shared operand forms and operations. -/

namespace Sys2Proof.Machine

/-! ### Operand forms of the two-operand instructions -/

/-- `op r/m, reg` and `op reg, r/m` (R180): the operation gets the destination, its value and the source. -/
def withRmReg (op : (w : Width) → Loc → BitVec w.bits → BitVec w.bits → State → Out) (d : Dir) (w : Width)
    (rm : RM) (reg : Reg) (s : State) : Out :=
  let l := s.locate rm
  seq (readLoc w l s) fun m s =>
  match d with
  | .toRm => op w l m (s.getReg w reg) s
  | .toReg => op w (.reg reg) (s.getReg w reg) m s

/-- `op r/m, imm` (R179). -/
def withRmImm (op : (w : Width) → Loc → BitVec w.bits → BitVec w.bits → State → Out) (w : Width)
    (rm : RM) (v : BitVec w.bits) (s : State) : Out :=
  let l := s.locate rm
  seq (readLoc w l s) fun m s => op w l m v s

/-- `op acc, imm`. -/
def withAccImm (op : (w : Width) → Loc → BitVec w.bits → BitVec w.bits → State → Out) (imm : Imm)
    (s : State) : Out :=
  op imm.width (.reg .ax_al) (s.acc imm.width) imm.value s

/-! ### The operations -/

/-- `l <- add_W(a, b, c)` (R17). -/
def addTo (c : Bool) (w : Width) (l : Loc) (a b : BitVec w.bits) (s : State) : Out :=
  writeLoc w l (addResult a b c) (s.setFlags (s.flags.add a b c))

/-- `l <- sub_W(a, b, c)` (R17). -/
def subTo (c : Bool) (w : Width) (l : Loc) (a b : BitVec w.bits) (s : State) : Out :=
  writeLoc w l (subResult a b c) (s.setFlags (s.flags.sub a b c))

/-- ADD. -/
def opAdd (w : Width) (l : Loc) (a b : BitVec w.bits) (s : State) : Out := addTo false w l a b s

/-- ADC: CF is read before it is written (R273). -/
def opAdc (w : Width) (l : Loc) (a b : BitVec w.bits) (s : State) : Out := addTo s.flags.cf w l a b s

/-- SUB. -/
def opSub (w : Width) (l : Loc) (a b : BitVec w.bits) (s : State) : Out := subTo false w l a b s

/-- SBB (R282). -/
def opSbb (w : Width) (l : Loc) (a b : BitVec w.bits) (s : State) : Out := subTo s.flags.cf w l a b s

/-- CMP: the result is discarded (R295). -/
def opCmp (w : Width) (_ : Loc) (a b : BitVec w.bits) (s : State) : Out :=
  .next (s.setFlags (s.flags.sub a b false))

/-! ### ADD -/

/-- ADD r/m, reg and ADD reg, r/m (R270). -/
def execAddRmReg (d : Dir) (w : Width) (rm : RM) (reg : Reg) (s : State) : Out :=
  withRmReg opAdd d w rm reg s

/-- ADD r/m, imm (R271). -/
def execAddRmImm (rm : RM) (imm : Imm) (s : State) : Out := withRmImm opAdd imm.width rm imm.value s

/-- ADD r/m8, imm8 in its second encoding (R271, R179). -/
def execAddRm8Imm8 (rm : RM) (imm : Byte) (s : State) : Out := withRmImm opAdd .byte rm imm s

/-- ADD r/m16, imm8 sign-extended (R271, R179). -/
def execAddRm16Imm8 (rm : RM) (imm : Byte) (s : State) : Out :=
  withRmImm opAdd .word rm (imm.signExtend 16) s

/-- ADD acc, imm (R272). -/
def execAddAccImm (imm : Imm) (s : State) : Out := withAccImm opAdd imm s

/-! ### ADC -/

/-- ADC r/m, reg and ADC reg, r/m (R273). -/
def execAdcRmReg (d : Dir) (w : Width) (rm : RM) (reg : Reg) (s : State) : Out :=
  withRmReg opAdc d w rm reg s

/-- ADC r/m, imm (R274). -/
def execAdcRmImm (rm : RM) (imm : Imm) (s : State) : Out := withRmImm opAdc imm.width rm imm.value s

/-- ADC r/m8, imm8 in its second encoding (R274, R179). -/
def execAdcRm8Imm8 (rm : RM) (imm : Byte) (s : State) : Out := withRmImm opAdc .byte rm imm s

/-- ADC r/m16, imm8 sign-extended (R274, R179). -/
def execAdcRm16Imm8 (rm : RM) (imm : Byte) (s : State) : Out :=
  withRmImm opAdc .word rm (imm.signExtend 16) s

/-- ADC acc, imm (R275). -/
def execAdcAccImm (imm : Imm) (s : State) : Out := withAccImm opAdc imm s

/-! ### SUB -/

/-- SUB r/m, reg and SUB reg, r/m (R279). -/
def execSubRmReg (d : Dir) (w : Width) (rm : RM) (reg : Reg) (s : State) : Out :=
  withRmReg opSub d w rm reg s

/-- SUB r/m, imm (R280). -/
def execSubRmImm (rm : RM) (imm : Imm) (s : State) : Out := withRmImm opSub imm.width rm imm.value s

/-- SUB r/m8, imm8 in its second encoding (R280, R179). -/
def execSubRm8Imm8 (rm : RM) (imm : Byte) (s : State) : Out := withRmImm opSub .byte rm imm s

/-- SUB r/m16, imm8 sign-extended (R280, R179). -/
def execSubRm16Imm8 (rm : RM) (imm : Byte) (s : State) : Out :=
  withRmImm opSub .word rm (imm.signExtend 16) s

/-- SUB acc, imm (R281). -/
def execSubAccImm (imm : Imm) (s : State) : Out := withAccImm opSub imm s

/-! ### SBB -/

/-- SBB r/m, reg and SBB reg, r/m (R282). -/
def execSbbRmReg (d : Dir) (w : Width) (rm : RM) (reg : Reg) (s : State) : Out :=
  withRmReg opSbb d w rm reg s

/-- SBB r/m, imm (R283). -/
def execSbbRmImm (rm : RM) (imm : Imm) (s : State) : Out := withRmImm opSbb imm.width rm imm.value s

/-- SBB r/m8, imm8 in its second encoding (R283, R179). -/
def execSbbRm8Imm8 (rm : RM) (imm : Byte) (s : State) : Out := withRmImm opSbb .byte rm imm s

/-- SBB r/m16, imm8 sign-extended (R283, R179). -/
def execSbbRm16Imm8 (rm : RM) (imm : Byte) (s : State) : Out :=
  withRmImm opSbb .word rm (imm.signExtend 16) s

/-- SBB acc, imm (R284). -/
def execSbbAccImm (imm : Imm) (s : State) : Out := withAccImm opSbb imm s

/-! ### CMP -/

/-- CMP r/m, reg and CMP reg, r/m (R295). -/
def execCmpRmReg (d : Dir) (w : Width) (rm : RM) (reg : Reg) (s : State) : Out :=
  withRmReg opCmp d w rm reg s

/-- CMP r/m, imm (R296). -/
def execCmpRmImm (rm : RM) (imm : Imm) (s : State) : Out := withRmImm opCmp imm.width rm imm.value s

/-- CMP r/m8, imm8 in its second encoding (R296, R179). -/
def execCmpRm8Imm8 (rm : RM) (imm : Byte) (s : State) : Out := withRmImm opCmp .byte rm imm s

/-- CMP r/m16, imm8 sign-extended (R296, R179). -/
def execCmpRm16Imm8 (rm : RM) (imm : Byte) (s : State) : Out :=
  withRmImm opCmp .word rm (imm.signExtend 16) s

/-- CMP acc, imm (R297). -/
def execCmpAccImm (imm : Imm) (s : State) : Out := withAccImm opCmp imm s

/-! ### INC, DEC, NEG -/

/-- An operand incremented; CF stays (R276). -/
def increment (w : Width) (l : Loc) (s : State) : Out :=
  seq (readLoc w l s) fun a s => writeLoc w l (addResult a 1 false) (s.setFlags (s.flags.inc a))

/-- An operand decremented; CF stays (R285). -/
def decrement (w : Width) (l : Loc) (s : State) : Out :=
  seq (readLoc w l s) fun a s => writeLoc w l (subResult a 1 false) (s.setFlags (s.flags.dec a))

/-- INC r/m (R276). -/
def execIncRm (w : Width) (rm : RM) (s : State) : Out := increment w (s.locate rm) s

/-- INC reg16 (R277). -/
def execIncReg (reg : Reg) (s : State) : Out := increment .word (.reg reg) s

/-- DEC r/m (R285). -/
def execDecRm (w : Width) (rm : RM) (s : State) : Out := decrement w (s.locate rm) s

/-- DEC reg16 (R286). -/
def execDecReg (reg : Reg) (s : State) : Out := decrement .word (.reg reg) s

/-- NEG r/m (R287). -/
def execNegRm (w : Width) (rm : RM) (s : State) : Out :=
  let l := s.locate rm
  seq (readLoc w l s) fun a s => subTo false w l 0 a s

/-! ### Multiplication -/

/-- DX:AX written. -/
def State.setDxAx (s : State) (p : BitVec 32) : State :=
  (s.setReg .word .dx_dl (p.extractLsb' 16 16)).setReg .word .ax_al (p.extractLsb' 0 16)

/-- DX:AX. -/
def State.dxAx (s : State) : BitVec 32 := s.regs.dx ++ s.regs.ax

/-- MUL by a value (R288): CF and OF say whether the upper half of the product is not 0. -/
def multiply (w : Width) (v : BitVec w.bits) (s : State) : State :=
  match w, v with
  | .byte, v =>
    let p : Word := (s.getReg .byte .ax_al).setWidth 16 * v.setWidth 16
    (s.setReg .word .ax_al p).mulFlags (decide (Word.high p ≠ 0))
  | .word, v =>
    let p : BitVec 32 := s.regs.ax.setWidth 32 * v.setWidth 32
    (s.setDxAx p).mulFlags (decide (p.extractLsb' 16 16 ≠ 0))

/-- IMUL by a value (R289): CF and OF say whether the upper half is not the sign extension of the lower. -/
def multiplySigned (w : Width) (v : BitVec w.bits) (s : State) : State :=
  match w, v with
  | .byte, v =>
    let al : Byte := s.getReg .byte .ax_al
    let p : Word := al.signExtend 16 * v.signExtend 16
    (s.setReg .word .ax_al p).mulFlags (decide (p ≠ (Word.low p).signExtend 16))
  | .word, v =>
    let p : BitVec 32 := s.regs.ax.signExtend 32 * v.signExtend 32
    (s.setDxAx p).mulFlags (decide (p ≠ (p.extractLsb' 0 16).signExtend 32))

/-- MUL r/m (R288). -/
def execMulRm (w : Width) (rm : RM) (s : State) : Out :=
  seq (readRM w rm s) fun v s => .next (multiply w v s)

/-- IMUL r/m (R289). -/
def execImulRm (w : Width) (rm : RM) (s : State) : Out :=
  seq (readRM w rm s) fun v s => .next (multiplySigned w v s)

/-- A word times an immediate into a register (R291). -/
def multiplyImm (reg : Reg) (rm : RM) (imm : Word) (s : State) : Out :=
  seq (readRM .word rm s) fun v s =>
  let p : BitVec 32 := v.signExtend 32 * imm.signExtend 32
  .next ((s.setReg .word reg (p.extractLsb' 0 16)).mulFlags
    (decide (p ≠ (p.extractLsb' 0 16).signExtend 32)))

/-- IMUL reg16, r/m16, imm16 (R291). -/
def execImulRegRmImm16 (reg : Reg) (rm : RM) (imm : Word) (s : State) : Out := multiplyImm reg rm imm s

/-- IMUL reg16, r/m16, imm8 sign-extended (R291). -/
def execImulRegRmImm8 (reg : Reg) (rm : RM) (imm : Byte) (s : State) : Out :=
  multiplyImm reg rm (imm.signExtend 16) s

/-! ### Division -/

/-- The divide error: type 0 with the return address after the instruction; AX and DX stay, the arithmetic
flags are undefined (R292, R461, R463; log 25). -/
def divideError (s : State) : Out := andThen (interrupt 0 s.ip s) fun s => .next s.divFlags

/-- The quotient and the remainder of a division of width `w` written: AL and AH, or AX and DX (R292). -/
def State.setQuotient (s : State) (w : Width) (q r : BitVec w.bits) : State :=
  match w, q, r with
  | .byte, q, r => s.setReg .word .ax_al (r ++ q)
  | .word, q, r => (s.setReg .word .ax_al q).setReg .word .dx_dl r

/-- The dividend of DIV: AX, or DX:AX, unsigned (R292). -/
def State.dividend (s : State) : Width → Nat
  | .byte => s.regs.ax.toNat
  | .word => s.dxAx.toNat

/-- The dividend of IDIV, signed (R293). -/
def State.dividendSigned (s : State) : Width → Int
  | .byte => s.regs.ax.toInt
  | .word => s.dxAx.toInt

/-- DIV by a value (R292). -/
def divide (w : Width) (v : BitVec w.bits) (s : State) : Out :=
  let n := s.dividend w
  let d := v.toNat
  if d = 0 ∨ n / d ≥ 2 ^ w.bits then divideError s
  else .next (s.setQuotient w (BitVec.ofNat w.bits (n / d)) (BitVec.ofNat w.bits (n % d))).divFlags

/-- IDIV by a value (R293): truncated division; -2^(W-1) is a result (U4; log 25). -/
def divideSigned (w : Width) (v : BitVec w.bits) (s : State) : Out :=
  let n := s.dividendSigned w
  let d := v.toInt
  if d = 0 ∨ n.tdiv d < -(2 : Int) ^ (w.bits - 1) ∨ n.tdiv d ≥ (2 : Int) ^ (w.bits - 1) then divideError s
  else .next (s.setQuotient w (BitVec.ofInt w.bits (n.tdiv d)) (BitVec.ofInt w.bits (n.tmod d))).divFlags

/-- DIV r/m (R292). -/
def execDivRm (w : Width) (rm : RM) (s : State) : Out := seq (readRM w rm s) fun v s => divide w v s

/-- IDIV r/m (R293). -/
def execIdivRm (w : Width) (rm : RM) (s : State) : Out := seq (readRM w rm s) fun v s => divideSigned w v s

/-! ### Decimal and ASCII adjusts -/

/-- Whether the low digit needs an adjust: AL[3:0] > 9 or AF (R303 to R306). -/
def lowAdjust (al : Byte) (af : Bool) : Bool := decide (al.toNat % 16 > 9) || af

/-- Whether the high digit needs one: AL > 99H or CF, both from before the instruction (R305, R306). -/
def highAdjust (al : Byte) (cf : Bool) : Bool := decide (al.toNat > 0x99) || cf

/-- AAA (R303). -/
def execAaa (s : State) : Out :=
  let al : Byte := s.getReg .byte .ax_al
  let ah : Byte := s.getReg .byte .sp_ah
  let a := lowAdjust al s.flags.af
  let ax : Word := if a then (ah + 1) ++ ((al + 6) &&& 0x0F#8) else ah ++ (al &&& 0x0F#8)
  .next ((s.setReg .word .ax_al ax).asciiFlags a)

/-- AAS (R304). -/
def execAas (s : State) : Out :=
  let al : Byte := s.getReg .byte .ax_al
  let ah : Byte := s.getReg .byte .sp_ah
  let a := lowAdjust al s.flags.af
  let ax : Word := if a then (ah - 1) ++ ((al - 6) &&& 0x0F#8) else ah ++ (al &&& 0x0F#8)
  .next ((s.setReg .word .ax_al ax).asciiFlags a)

/-- DAA (R305). -/
def execDaa (s : State) : Out :=
  let old : Byte := s.getReg .byte .ax_al
  let lo := lowAdjust old s.flags.af
  let hi := highAdjust old s.flags.cf
  let al := (if lo then old + 6 else old) + (if hi then 0x60#8 else 0#8)
  .next ((s.setReg .byte .ax_al al).decimalFlags lo hi al)

/-- DAS (R306). -/
def execDas (s : State) : Out :=
  let old : Byte := s.getReg .byte .ax_al
  let lo := lowAdjust old s.flags.af
  let hi := highAdjust old s.flags.cf
  let al := (if lo then old - 6 else old) - (if hi then 0x60#8 else 0#8)
  .next ((s.setReg .byte .ax_al al).decimalFlags lo hi al)

/-- AAM (R309). -/
def execAam (s : State) : Out :=
  let t : Byte := s.getReg .byte .ax_al
  .next ((s.setReg .word .ax_al ((t / 10#8) ++ (t % 10#8))).asciiMulFlags (t % 10#8))

/-- AAD (R310). -/
def execAad (s : State) : Out :=
  let al : Byte := s.getReg .byte .ax_al
  let ah : Byte := s.getReg .byte .sp_ah
  let r := ah * 10#8 + al
  .next ((s.setReg .word .ax_al (0#8 ++ r)).asciiMulFlags r)

/-- CBW (R307). -/
def execCbw (s : State) : Out :=
  let al : Byte := s.getReg .byte .ax_al
  .next (s.setReg .word .ax_al (al.signExtend 16))

/-- CWD (R308). -/
def execCwd (s : State) : Out :=
  .next (s.setReg .word .dx_dl (if s.regs.ax.msb then 0xFFFF#16 else 0x0000#16))

end Sys2Proof.Machine
end

