-- ==== Sys2Proof/Machine/Control.lean ====
section
/-! DEFINITION. The meanings of the control transfer instructions (R370 to R415). -/

namespace Sys2Proof.Machine

/-! ### CALL, JMP, RET -/

/-- CALL near direct (R370). -/
def execCallNear (disp : Word) (s : State) : Out :=
  andThen (push s.ip s) fun s => .next (s.jump (s.target16 disp))

/-- CALL near indirect (R371): the operand is read before the push. -/
def execCallNearRm (rm : RM) (s : State) : Out :=
  seq (readRM .word rm s) fun t s => andThen (push s.ip s) fun s => .next (s.jump t)

/-- CS and IP_next pushed, then a far transfer (R372, R373). -/
def callFarTo (seg off : Word) (s : State) : Out :=
  andThen (push s.segs.cs s) fun s => andThen (push s.ip s) fun s => .next (s.farJump seg off)

/-- CALL far direct (R372). -/
def execCallFar (off seg : Word) (s : State) : Out := callFarTo seg off s

/-- CALL far indirect (R373). -/
def execCallFarMem (mem : MemRef) (s : State) : Out :=
  seq (readPointer (s.memSeg mem) (s.ea mem) s) fun p s => callFarTo p.2 p.1 s

/-- JMP short (R375). -/
def execJmpShort (disp : Byte) (s : State) : Out := .next (s.jump (s.target8 disp))

/-- JMP near direct (R376). -/
def execJmpNear (disp : Word) (s : State) : Out := .next (s.jump (s.target16 disp))

/-- JMP near indirect (R377). -/
def execJmpNearRm (rm : RM) (s : State) : Out := seq (readRM .word rm s) fun t s => .next (s.jump t)

/-- JMP far direct (R378). -/
def execJmpFar (off seg : Word) (s : State) : Out := .next (s.farJump seg off)

/-- JMP far indirect (R379). -/
def execJmpFarMem (mem : MemRef) (s : State) : Out :=
  seq (readPointer (s.memSeg mem) (s.ea mem) s) fun p s => .next (s.farJump p.2 p.1)

/-- RET near (R380). -/
def execRetNear (s : State) : Out := seq (pop s) fun ip s => .next (s.jump ip)

/-- RET near imm16: pop, then add (R381). -/
def execRetNearImm (k : Word) (s : State) : Out :=
  seq (pop s) fun ip s => .next ((s.setSp (s.regs.sp + k)).jump ip)

/-- RET far (R382). -/
def execRetFar (s : State) : Out :=
  seq (pop s) fun ip s => seq (pop s) fun cs s => .next (s.farJump cs ip)

/-- RET far imm16 (R383). -/
def execRetFarImm (k : Word) (s : State) : Out :=
  seq (pop s) fun ip s => seq (pop s) fun cs s => .next ((s.setSp (s.regs.sp + k)).farJump cs ip)

/-! ### Conditional jumps and loops -/

/-- A jump by an 8-bit displacement if the condition holds (R385). -/
def jumpIf (cond : Bool) (disp : Byte) (s : State) : Out :=
  .next (if cond then s.jump (s.target8 disp) else s)

/-- JO (R400). -/
def execJo (disp : Byte) (s : State) : Out := jumpIf (s.flags.ofl) disp s

/-- JNO (R401). -/
def execJno (disp : Byte) (s : State) : Out := jumpIf (!s.flags.ofl) disp s

/-- JB/JNAE (R402). -/
def execJb (disp : Byte) (s : State) : Out := jumpIf (s.flags.cf) disp s

/-- JNB/JAE (R403). -/
def execJnb (disp : Byte) (s : State) : Out := jumpIf (!s.flags.cf) disp s

/-- JE/JZ (R404). -/
def execJe (disp : Byte) (s : State) : Out := jumpIf (s.flags.zf) disp s

/-- JNE/JNZ (R405). -/
def execJne (disp : Byte) (s : State) : Out := jumpIf (!s.flags.zf) disp s

/-- JBE/JNA (R406). -/
def execJbe (disp : Byte) (s : State) : Out := jumpIf (s.flags.cf || s.flags.zf) disp s

/-- JNBE/JA (R407). -/
def execJnbe (disp : Byte) (s : State) : Out := jumpIf (!s.flags.cf && !s.flags.zf) disp s

/-- JS (R408). -/
def execJs (disp : Byte) (s : State) : Out := jumpIf (s.flags.sf) disp s

/-- JNS (R409). -/
def execJns (disp : Byte) (s : State) : Out := jumpIf (!s.flags.sf) disp s

/-- JP/JPE (R410). -/
def execJp (disp : Byte) (s : State) : Out := jumpIf (s.flags.pf) disp s

/-- JNP/JPO (R411). -/
def execJnp (disp : Byte) (s : State) : Out := jumpIf (!s.flags.pf) disp s

/-- JL/JNGE (R412). -/
def execJl (disp : Byte) (s : State) : Out := jumpIf (s.flags.sf != s.flags.ofl) disp s

/-- JNL/JGE (R413). -/
def execJnl (disp : Byte) (s : State) : Out := jumpIf (s.flags.sf == s.flags.ofl) disp s

/-- JLE/JNG (R414). -/
def execJle (disp : Byte) (s : State) : Out := jumpIf (s.flags.zf || s.flags.sf != s.flags.ofl) disp s

/-- JNLE/JG (R415). -/
def execJnle (disp : Byte) (s : State) : Out := jumpIf (!s.flags.zf && s.flags.sf == s.flags.ofl) disp s

/-- CX decremented; the flags stay (R387). -/
def State.countDown (s : State) : State := s.setCx (s.regs.cx - 1)

/-- LOOP (R387). -/
def execLoop (disp : Byte) (s : State) : Out :=
  jumpIf (decide (s.countDown.regs.cx ≠ 0)) disp s.countDown

/-- LOOPZ/LOOPE (R388). -/
def execLoopz (disp : Byte) (s : State) : Out :=
  jumpIf (decide (s.countDown.regs.cx ≠ 0) && s.flags.zf) disp s.countDown

/-- LOOPNZ/LOOPNE (R389). -/
def execLoopnz (disp : Byte) (s : State) : Out :=
  jumpIf (decide (s.countDown.regs.cx ≠ 0) && !s.flags.zf) disp s.countDown

/-- JCXZ (R390). -/
def execJcxz (disp : Byte) (s : State) : Out := jumpIf (decide (s.regs.cx = 0)) disp s

/-! ### Interrupt instructions -/

/-- INT type (R394). -/
def execIntType (type : Byte) (s : State) : Out := interrupt type s.ip s

/-- INT 3 (R395). -/
def execInt3 (s : State) : Out := interrupt 3 s.ip s

/-- INTO (R396). -/
def execInto (s : State) : Out := if s.flags.ofl then interrupt 4 s.ip s else .next s

/-- IRET (R397). -/
def execIret (s : State) : Out := returnFromInterrupt s

end Sys2Proof.Machine
end

