-- ==== Sys2Proof/Machine/DataTransfer.lean ====
section
/-! DEFINITION. The meanings of the data transfer instructions (R220 to R252). -/

namespace Sys2Proof.Machine

/-! ### MOV -/

/-- MOV r/m, reg (R220). -/
def execMovRmReg (w : Width) (rm : RM) (reg : Reg) (s : State) : Out := writeRM w rm (s.getReg w reg) s

/-- MOV reg, r/m (R221). -/
def execMovRegRm (w : Width) (reg : Reg) (rm : RM) (s : State) : Out :=
  seq (readRM w rm s) fun v s => .next (s.setReg w reg v)

/-- MOV r/m, imm (R222). -/
def execMovRmImm (rm : RM) (imm : Imm) (s : State) : Out := writeRM imm.width rm imm.value s

/-- MOV reg8, imm8 (R223). -/
def execMovReg8Imm (reg : Reg) (imm : Byte) (s : State) : Out := .next (s.setReg .byte reg imm)

/-- MOV reg16, imm16 (R223). -/
def execMovReg16Imm (reg : Reg) (imm : Word) (s : State) : Out := .next (s.setReg .word reg imm)

/-- MOV acc, [addr] (R224). -/
def execMovAccMem (w : Width) (addr : Word) (s : State) : Out :=
  seq (readSeg w (s.segment .ds) addr s) fun v s => .next (s.setAcc w v)

/-- MOV [addr], acc (R225). -/
def execMovMemAcc (w : Width) (addr : Word) (s : State) : Out :=
  writeSeg w (s.segment .ds) addr (s.acc w) s

/-- MOV sreg, r/m16 (R226); MOV CS is refused (R191). -/
def execMovSregRm (sreg : SegReg) (rm : RM) (s : State) : Out :=
  if sreg = .cs then .refused .movToCs
  else seq (readRM .word rm s) fun v s => .next (s.setSeg sreg v).inhibited

/-- MOV r/m16, sreg (R227). -/
def execMovRmSreg (rm : RM) (sreg : SegReg) (s : State) : Out := writeRM .word rm (s.getSeg sreg) s

/-! ### PUSH and POP -/

/-- A register pushed: for SP, its value after the decrement (R230). -/
def pushRegister (r : Reg) (s : State) : Out :=
  push (if r = .sp_ah then s.regs.sp - 2 else s.getReg .word r) s

/-- PUSH r/m16 (R229). -/
def execPushRm (rm : RM) (s : State) : Out :=
  match rm with
  | .reg r => pushRegister r s
  | .mem m => seq (readRM .word (.mem m) s) push

/-- PUSH reg16 (R230). -/
def execPushReg (reg : Reg) (s : State) : Out := pushRegister reg s

/-- PUSH ES (R231). -/
def execPushEs (s : State) : Out := push s.segs.es s

/-- PUSH CS (R231). -/
def execPushCs (s : State) : Out := push s.segs.cs s

/-- PUSH SS (R231). -/
def execPushSs (s : State) : Out := push s.segs.ss s

/-- PUSH DS (R231). -/
def execPushDs (s : State) : Out := push s.segs.ds s

/-- PUSH imm16 (R232). -/
def execPushImm16 (imm : Word) (s : State) : Out := push imm s

/-- PUSH imm8, sign-extended (R232). -/
def execPushImm8 (imm : Byte) (s : State) : Out := push (imm.signExtend 16) s

/-- PUSHA (R238): the SP slot holds SP from before the instruction. -/
def execPusha (s : State) : Out :=
  let t := s.regs.sp
  andThen (push s.regs.ax s) fun s => andThen (push s.regs.cx s) fun s =>
  andThen (push s.regs.dx s) fun s => andThen (push s.regs.bx s) fun s =>
  andThen (push t s) fun s => andThen (push s.regs.bp s) fun s =>
  andThen (push s.regs.si s) fun s => push s.regs.di s

/-- POP r/m16 (R234). -/
def execPopRm (rm : RM) (s : State) : Out := seq (pop s) fun v s => writeRM .word rm v s

/-- POP reg16 (R235). -/
def execPopReg (reg : Reg) (s : State) : Out := seq (pop s) fun v s => .next (s.setReg .word reg v)

/-- A word popped into a segment register (R236). -/
def popSegment (sreg : SegReg) (s : State) : Out :=
  seq (pop s) fun v s => .next (s.setSeg sreg v).inhibited

/-- POP ES (R236). -/
def execPopEs (s : State) : Out := popSegment .es s

/-- POP SS (R236). -/
def execPopSs (s : State) : Out := popSegment .ss s

/-- POP DS (R236). -/
def execPopDs (s : State) : Out := popSegment .ds s

/-- POPA (R239): the word in the SP slot is dropped. -/
def execPopa (s : State) : Out :=
  seq (pop s) fun v s => seq (pop (s.setDi v)) fun v s => seq (pop (s.setSi v)) fun v s =>
  seq (pop (s.setBp v)) fun _ s =>
  seq (pop s) fun v s => seq (pop (s.setReg .word .bx_bl v)) fun v s =>
  seq (pop (s.setReg .word .dx_dl v)) fun v s => seq (pop (s.setCx v)) fun v s =>
  .next (s.setReg .word .ax_al v)

/-! ### XCHG -/

/-- XCHG r/m, reg (R240). -/
def execXchgRmReg (w : Width) (rm : RM) (reg : Reg) (s : State) : Out :=
  let l := s.locate rm
  seq (readLoc w l s) fun a s =>
  andThen (writeLoc w l (s.getReg w reg) s) fun s => .next (s.setReg w reg a)

/-- XCHG AX, reg16 (R241). -/
def execXchgAxReg (reg : Reg) (s : State) : Out :=
  .next ((s.setReg .word .ax_al (s.getReg .word reg)).setReg .word reg s.regs.ax)

/-! ### IN and OUT -/

/-- IN acc, port8: the port is zero-extended (R242, R150). -/
def execInAccPort (w : Width) (port : Byte) (s : State) : Out :=
  seq (ioRead w (port.setWidth 16) s) fun v s => .next (s.setAcc w v)

/-- IN acc, DX (R242). -/
def execInAccDx (w : Width) (s : State) : Out :=
  seq (ioRead w s.regs.dx s) fun v s => .next (s.setAcc w v)

/-- OUT port8, acc (R243). -/
def execOutPortAcc (w : Width) (port : Byte) (s : State) : Out :=
  ioWrite w (port.setWidth 16) (s.acc w) s

/-- OUT DX, acc (R243). -/
def execOutDxAcc (w : Width) (s : State) : Out := ioWrite w s.regs.dx (s.acc w) s

/-! ### Addresses and pointers -/

/-- XLAT (R245). -/
def execXlat (s : State) : Out :=
  seq (readSeg .byte (s.segment .ds) (s.regs.bx + (s.getReg .byte .ax_al).setWidth 16) s) fun v s =>
  .next (s.setAcc .byte v)

/-- LEA (R246). -/
def execLea (reg : Reg) (mem : MemRef) (s : State) : Out := .next (s.setReg .word reg (s.ea mem))

/-- A pointer loaded into a register and a segment register (R247, R248). -/
def loadPointer (sreg : SegReg) (reg : Reg) (mem : MemRef) (s : State) : Out :=
  seq (readPointer (s.memSeg mem) (s.ea mem) s) fun p s =>
  .next ((s.setReg .word reg p.1).setSeg sreg p.2).inhibited

/-- LDS (R247). -/
def execLds (reg : Reg) (mem : MemRef) (s : State) : Out := loadPointer .ds reg mem s

/-- LES (R248). -/
def execLes (reg : Reg) (mem : MemRef) (s : State) : Out := loadPointer .es reg mem s

/-! ### Flag transfer -/

/-- LAHF (R249). -/
def execLahf (s : State) : Out := .next (s.setReg .byte .sp_ah (Word.low s.flags.image))

/-- SAHF (R250). -/
def execSahf (s : State) : Out :=
  let ah : Byte := s.getReg .byte .sp_ah
  .next (s.setFlags { s.flags with sf := ah.getLsbD 7, zf := ah.getLsbD 6, af := ah.getLsbD 4,
                                   pf := ah.getLsbD 2, cf := ah.getLsbD 0 })

/-- PUSHF (R251). -/
def execPushf (s : State) : Out := push s.flags.image s

/-- POPF (R252). -/
def execPopf (s : State) : Out := seq (pop s) fun v s => .next (s.setFlags (Flags.ofImage v))

end Sys2Proof.Machine
end

