-- ==== Sys2Proof/Machine/HighLevel.lean ====
section
/-! DEFINITION. The meanings of ENTER, LEAVE and BOUND (R420 to R424). -/

namespace Sys2Proof.Machine

/-- ENTER's copies of the enclosing frame pointers (R420). -/
def copyFrames : Nat → State → Out
  | 0, s => .next s
  | k + 1, s =>
    seq (readSeg .word s.segs.ss (s.regs.bp - 2) (s.setBp (s.regs.bp - 2))) fun v s =>
    andThen (push v s) fun s => copyFrames k s

/-- ENTER's display: with a level of 1 or more, `level - 1` copies and the new frame pointer (R420). -/
def pushDisplay (level : Nat) (frame : Word) (s : State) : Out :=
  match level with
  | 0 => .next s
  | k + 1 => andThen (copyFrames k s) fun s => push frame s

/-- ENTER (R420): the level is taken modulo 32. -/
def execEnter (size : Word) (level : Byte) (s : State) : Out :=
  andThen (push s.regs.bp s) fun s =>
  let frame := s.regs.sp
  andThen (pushDisplay (level.toNat % 32) frame s) fun s =>
  .next ((s.setBp frame).setSp (s.regs.sp - size))

/-- LEAVE (R422). -/
def execLeave (s : State) : Out := seq (pop (s.setSp s.regs.bp)) fun v s => .next (s.setBp v)

/-- Whether an index lies outside the bounds, signed and both inclusive (R424). -/
def outOfBounds (i lower upper : Word) : Bool := i.slt lower || upper.slt i

/-- BOUND (R424): outside the bounds, type 5 with the return address after the instruction (R465). -/
def execBound (reg : Reg) (mem : MemRef) (s : State) : Out :=
  seq (readSeg .word (s.memSeg mem) (s.ea mem) s) fun lower s =>
  seq (readSeg .word (s.memSeg mem) (s.ea mem + 2) s) fun upper s =>
  if outOfBounds (s.getReg .word reg) lower upper then interrupt 5 s.ip s else .next s

end Sys2Proof.Machine
end

