-- ==== Sys2Proof/Machine/Logic.lean ====
section
/-! DEFINITION. The meanings of the logical, shift and rotate instructions (R320 to R342). -/

namespace Sys2Proof.Machine

/-! ### The operations -/

/-- `l <- logic_W(r)` (R17). -/
def logicTo (w : Width) (l : Loc) (r : BitVec w.bits) (s : State) : Out := writeLoc w l r (s.logicFlags r)

/-- AND. -/
def opAnd (w : Width) (l : Loc) (a b : BitVec w.bits) (s : State) : Out := logicTo w l (a &&& b) s

/-- OR. -/
def opOr (w : Width) (l : Loc) (a b : BitVec w.bits) (s : State) : Out := logicTo w l (a ||| b) s

/-- XOR. -/
def opXor (w : Width) (l : Loc) (a b : BitVec w.bits) (s : State) : Out := logicTo w l (a ^^^ b) s

/-- TEST: the result is discarded (R329). -/
def opTest (w : Width) (_ : Loc) (a b : BitVec w.bits) (s : State) : Out := .next (s.logicFlags (a &&& b))

/-! ### AND -/

/-- AND r/m, reg and AND reg, r/m (R320). -/
def execAndRmReg (d : Dir) (w : Width) (rm : RM) (reg : Reg) (s : State) : Out :=
  withRmReg opAnd d w rm reg s

/-- AND r/m, imm (R321). -/
def execAndRmImm (rm : RM) (imm : Imm) (s : State) : Out := withRmImm opAnd imm.width rm imm.value s

/-- AND acc, imm (R322). -/
def execAndAccImm (imm : Imm) (s : State) : Out := withAccImm opAnd imm s

/-! ### OR -/

/-- OR r/m, reg and OR reg, r/m (R323). -/
def execOrRmReg (d : Dir) (w : Width) (rm : RM) (reg : Reg) (s : State) : Out :=
  withRmReg opOr d w rm reg s

/-- OR r/m, imm (R324). -/
def execOrRmImm (rm : RM) (imm : Imm) (s : State) : Out := withRmImm opOr imm.width rm imm.value s

/-- OR acc, imm (R325). -/
def execOrAccImm (imm : Imm) (s : State) : Out := withAccImm opOr imm s

/-! ### XOR -/

/-- XOR r/m, reg and XOR reg, r/m (R326). -/
def execXorRmReg (d : Dir) (w : Width) (rm : RM) (reg : Reg) (s : State) : Out :=
  withRmReg opXor d w rm reg s

/-- XOR r/m, imm (R327). -/
def execXorRmImm (rm : RM) (imm : Imm) (s : State) : Out := withRmImm opXor imm.width rm imm.value s

/-- XOR acc, imm (R328). -/
def execXorAccImm (imm : Imm) (s : State) : Out := withAccImm opXor imm s

/-! ### TEST and NOT -/

/-- TEST r/m, reg (R329). -/
def execTestRmReg (w : Width) (rm : RM) (reg : Reg) (s : State) : Out := withRmReg opTest .toRm w rm reg s

/-- TEST r/m, imm (R330). -/
def execTestRmImm (rm : RM) (imm : Imm) (s : State) : Out := withRmImm opTest imm.width rm imm.value s

/-- TEST acc, imm (R331). -/
def execTestAccImm (imm : Imm) (s : State) : Out := withAccImm opTest imm s

/-- NOT r/m (R332): no flag changes. -/
def execNotRm (w : Width) (rm : RM) (s : State) : Out :=
  let l := s.locate rm
  seq (readLoc w l s) fun a s => writeLoc w l (~~~a) s

/-! ### Shifts and rotates -/

/-- The whole shift or rotate (R342): a count of 0 writes nothing and changes no flag. -/
def shiftRm (op : ShiftOp) (w : Width) (rm : RM) (count : Byte) (s : State) : Out :=
  let l := s.locate rm
  seq (readLoc w l s) fun x s =>
  let n := shiftCount count
  if n = 0 then .next s
  else
    let r := op.run n x s.flags.cf
    writeLoc w l r.1 (s.shiftFlags op n x r.1 r.2)

/-- ROL r/m, 1 (R335, R342). -/
def execRolRm1 (w : Width) (rm : RM) (s : State) : Out := shiftRm .rol w rm 1 s

/-- ROL r/m, CL (R335, R342). -/
def execRolRmCl (w : Width) (rm : RM) (s : State) : Out := shiftRm .rol w rm (s.getReg .byte .cx_cl) s

/-- ROL r/m, count (R335, R342). -/
def execRolRmImm (w : Width) (rm : RM) (count : Byte) (s : State) : Out := shiftRm .rol w rm count s

/-- ROR r/m, 1 (R336, R342). -/
def execRorRm1 (w : Width) (rm : RM) (s : State) : Out := shiftRm .ror w rm 1 s

/-- ROR r/m, CL (R336, R342). -/
def execRorRmCl (w : Width) (rm : RM) (s : State) : Out := shiftRm .ror w rm (s.getReg .byte .cx_cl) s

/-- ROR r/m, count (R336, R342). -/
def execRorRmImm (w : Width) (rm : RM) (count : Byte) (s : State) : Out := shiftRm .ror w rm count s

/-- RCL r/m, 1 (R337, R342). -/
def execRclRm1 (w : Width) (rm : RM) (s : State) : Out := shiftRm .rcl w rm 1 s

/-- RCL r/m, CL (R337, R342). -/
def execRclRmCl (w : Width) (rm : RM) (s : State) : Out := shiftRm .rcl w rm (s.getReg .byte .cx_cl) s

/-- RCL r/m, count (R337, R342). -/
def execRclRmImm (w : Width) (rm : RM) (count : Byte) (s : State) : Out := shiftRm .rcl w rm count s

/-- RCR r/m, 1 (R338, R342). -/
def execRcrRm1 (w : Width) (rm : RM) (s : State) : Out := shiftRm .rcr w rm 1 s

/-- RCR r/m, CL (R338, R342). -/
def execRcrRmCl (w : Width) (rm : RM) (s : State) : Out := shiftRm .rcr w rm (s.getReg .byte .cx_cl) s

/-- RCR r/m, count (R338, R342). -/
def execRcrRmImm (w : Width) (rm : RM) (count : Byte) (s : State) : Out := shiftRm .rcr w rm count s

/-- SHL/SAL r/m, 1 (R339, R342). -/
def execShlRm1 (w : Width) (rm : RM) (s : State) : Out := shiftRm .shl w rm 1 s

/-- SHL/SAL r/m, CL (R339, R342). -/
def execShlRmCl (w : Width) (rm : RM) (s : State) : Out := shiftRm .shl w rm (s.getReg .byte .cx_cl) s

/-- SHL/SAL r/m, count (R339, R342). -/
def execShlRmImm (w : Width) (rm : RM) (count : Byte) (s : State) : Out := shiftRm .shl w rm count s

/-- SHR r/m, 1 (R340, R342). -/
def execShrRm1 (w : Width) (rm : RM) (s : State) : Out := shiftRm .shr w rm 1 s

/-- SHR r/m, CL (R340, R342). -/
def execShrRmCl (w : Width) (rm : RM) (s : State) : Out := shiftRm .shr w rm (s.getReg .byte .cx_cl) s

/-- SHR r/m, count (R340, R342). -/
def execShrRmImm (w : Width) (rm : RM) (count : Byte) (s : State) : Out := shiftRm .shr w rm count s

/-- SAR r/m, 1 (R341, R342). -/
def execSarRm1 (w : Width) (rm : RM) (s : State) : Out := shiftRm .sar w rm 1 s

/-- SAR r/m, CL (R341, R342). -/
def execSarRmCl (w : Width) (rm : RM) (s : State) : Out := shiftRm .sar w rm (s.getReg .byte .cx_cl) s

/-- SAR r/m, count (R341, R342). -/
def execSarRmImm (w : Width) (rm : RM) (count : Byte) (s : State) : Out := shiftRm .sar w rm count s

end Sys2Proof.Machine
end

