-- ==== Sys2Proof/Machine/Processor.lean ====
section
/-! DEFINITION. The meanings of the processor control instructions (R430 to R445) and of the prefix bytes (R172, R173, R178, R360, R444). -/

namespace Sys2Proof.Machine

/-! ### Flags -/

/-- CLC (R430). -/
def execClc (s : State) : Out := .next (s.setFlags { s.flags with cf := false })

/-- STC (R431). -/
def execStc (s : State) : Out := .next (s.setFlags { s.flags with cf := true })

/-- CMC (R432). -/
def execCmc (s : State) : Out := .next (s.setFlags { s.flags with cf := !s.flags.cf })

/-- CLD (R433). -/
def execCld (s : State) : Out := .next (s.setFlags { s.flags with df := false })

/-- STD (R434). -/
def execStd (s : State) : Out := .next (s.setFlags { s.flags with df := true })

/-- CLI (R435). -/
def execCli (s : State) : Out := .next (s.setFlags { s.flags with ifl := false })

/-- STI (R436): one that changes IF from 0 to 1 holds maskable interrupts for one instruction (R47). -/
def execSti (s : State) : Out :=
  .next { s with flags := { s.flags with ifl := true }, inhibitInt := s.inhibitInt || !s.flags.ifl }

/-! ### Synchronisation -/

/-- HLT (R440). -/
def execHlt (s : State) : Out := .next { s with activity := .halted }

/-- WAIT (R441): one look at TEST; while it is HIGH the CPU waits and looks again. -/
def execWait (s : State) : Out :=
  .next { s with activity := if s.pins.test then .waiting else .running }

/-- NOP (R443). -/
def execNop (s : State) : Out := .next s

/-- ESC (R445): type 7 with the return address at its first byte, prefixes included, when ET = 1; else a
memory operand is read and ignored. -/
def execEsc (_ttt _lll : BitVec 3) (rm : RM) (s : State) : Out :=
  if s.reloc.getLsbD 15 then interrupt 7 s.ipStart s
  else match rm with
    | .reg _ => .next s
    | .mem m => seq (readRM .word (.mem m) s) fun _ s => .next s

/-! ### Prefixes -/

/-- A segment override; a second one is refused (R172, R173, R178). -/
def overrideSegment (r : SegReg) (s : State) : Out :=
  if s.pfx.seg.isSome then .refused .repeatedPrefix
  else .next { s with pfx := { s.pfx with seg := some r } }

/-- ES: (R178). -/
def execSegEs (s : State) : Out := overrideSegment .es s

/-- CS: (R178). -/
def execSegCs (s : State) : Out := overrideSegment .cs s

/-- SS: (R178). -/
def execSegSs (s : State) : Out := overrideSegment .ss s

/-- DS: (R178). -/
def execSegDs (s : State) : Out := overrideSegment .ds s

/-- LOCK (R444); a second one is refused (R173). -/
def execLock (s : State) : Out :=
  if s.pfx.lock then .refused .repeatedPrefix else .next { s with pfx := { s.pfx with lock := true } }

/-- REP, REPE/REPZ, REPNE/REPNZ (R360); a second one is refused (R173). -/
def execRep (z : Bool) (s : State) : Out :=
  if s.pfx.rep.isSome then .refused .repeatedPrefix
  else .next { s with pfx := { s.pfx with rep := some z } }

end Sys2Proof.Machine
end

