-- ==== Sys2Proof/Machine/Strings.lean ====
section
/-! DEFINITION. The meanings of the string instructions (R350 to R357) and their repetition (R360 to R364). -/

namespace Sys2Proof.Machine

/-! ### One element -/

/-- `delta`: the element's size, negated when DF = 1 (R350). -/
def State.delta (s : State) (w : Width) : Word :=
  let n : Word := match w with
    | .byte => 1
    | .word => 2
  if s.flags.df then 0 - n else n

/-- SI after the element (R350). -/
def State.stepSi (s : State) (w : Width) : State := s.setSi (s.regs.si + s.delta w)

/-- DI after the element (R350). -/
def State.stepDi (s : State) (w : Width) : State := s.setDi (s.regs.di + s.delta w)

/-- The source element at DS:SI or the override segment (R350). -/
def readSource (w : Width) (s : State) : Res (BitVec w.bits) := readSeg w (s.segment .ds) s.regs.si s

/-- The element at ES:DI, never overridden (R350, R178). -/
def readDest (w : Width) (s : State) : Res (BitVec w.bits) := readSeg w s.segs.es s.regs.di s

/-- The element at ES:DI written. -/
def writeDest (w : Width) (v : BitVec w.bits) (s : State) : Out := writeSeg w s.segs.es s.regs.di v s

/-- One element of MOVS (R351). -/
def movsElement (w : Width) (s : State) : Out :=
  seq (readSource w s) fun v s => andThen (writeDest w v s) fun s => .next ((s.stepSi w).stepDi w)

/-- One element of CMPS: source minus destination (R352). -/
def cmpsElement (w : Width) (s : State) : Out :=
  seq (readSource w s) fun a s => seq (readDest w s) fun b s =>
  .next (((s.setFlags (s.flags.sub a b false)).stepSi w).stepDi w)

/-- One element of SCAS: accumulator minus memory (R353). -/
def scasElement (w : Width) (s : State) : Out :=
  seq (readDest w s) fun b s => .next ((s.setFlags (s.flags.sub (s.acc w) b false)).stepDi w)

/-- One element of LODS (R354). -/
def lodsElement (w : Width) (s : State) : Out :=
  seq (readSource w s) fun v s => .next ((s.setAcc w v).stepSi w)

/-- One element of STOS (R355). -/
def stosElement (w : Width) (s : State) : Out :=
  andThen (writeDest w (s.acc w) s) fun s => .next (s.stepDi w)

/-- One element of INS (R356). -/
def insElement (w : Width) (s : State) : Out :=
  seq (ioRead w s.regs.dx s) fun v s => andThen (writeDest w v s) fun s => .next (s.stepDi w)

/-- One element of OUTS (R357). -/
def outsElement (w : Width) (s : State) : Out :=
  seq (readSource w s) fun v s => andThen (ioWrite w s.regs.dx v s) fun s => .next (s.stepSi w)

/-! ### Repetition -/

/-- Whether the repetition also ends on ZF: only after a compare, when ZF differs from z (R360). -/
def endsOnZero (op : StringOp) (z : Bool) (s : State) : Bool :=
  (decide (op = .cmps) || decide (op = .scas)) && decide (s.flags.zf ≠ z)

/-- The activity after an element of a repeated instruction: repeating, until CX is 0 or ZF ends it (R360;
log 10). -/
def nextElement (op : StringOp) (w : Width) (z : Bool) (s : State) : State :=
  { s with activity := if decide (s.regs.cx = 0) || endsOnZero op z s then .running else .repeating op w }

/-- A string instruction under its repeat prefix, one element a step (R360): CX is tested before the
element and decremented after it. -/
def repeated (op : StringOp) (w : Width) (element : Width → State → Out) (s : State) : Out :=
  match s.pfx.rep with
  | none => element w s
  | some z =>
    if s.regs.cx = 0 then .next { s with activity := .running }
    else andThen (element w s) fun s => .next (nextElement op w z (s.setCx (s.regs.cx - 1)))

/-- MOVS (R351, R360). -/
def execMovs (w : Width) (s : State) : Out := repeated .movs w movsElement s

/-- CMPS (R352, R360). -/
def execCmps (w : Width) (s : State) : Out := repeated .cmps w cmpsElement s

/-- SCAS (R353, R360). -/
def execScas (w : Width) (s : State) : Out := repeated .scas w scasElement s

/-- LODS (R354, R360). -/
def execLods (w : Width) (s : State) : Out := repeated .lods w lodsElement s

/-- STOS (R355, R360). -/
def execStos (w : Width) (s : State) : Out := repeated .stos w stosElement s

/-- INS (R356, R360). -/
def execIns (w : Width) (s : State) : Out := repeated .ins w insElement s

/-- OUTS (R357, R360). -/
def execOuts (w : Width) (s : State) : Out := repeated .outs w outsElement s

end Sys2Proof.Machine
end

