-- ==== Sys2Proof/Machine/Dispatch.lean ====
section
/-! DEFINITION. The dispatch: one arm per instruction, each one call of its meaning. -/

namespace Sys2Proof.Machine

def exec (i : Instr) (s : State) : Host.Outcome State Fault Refusal :=
  match i with
  | .movRmReg w rm reg => Sys2Proof.Machine.execMovRmReg w rm reg s
  | .movRegRm w reg rm => Sys2Proof.Machine.execMovRegRm w reg rm s
  | .movRmImm rm imm => Sys2Proof.Machine.execMovRmImm rm imm s
  | .movReg8Imm reg imm => Sys2Proof.Machine.execMovReg8Imm reg imm s
  | .movReg16Imm reg imm => Sys2Proof.Machine.execMovReg16Imm reg imm s
  | .movAccMem w addr => Sys2Proof.Machine.execMovAccMem w addr s
  | .movMemAcc w addr => Sys2Proof.Machine.execMovMemAcc w addr s
  | .movSregRm sreg rm => Sys2Proof.Machine.execMovSregRm sreg rm s
  | .movRmSreg rm sreg => Sys2Proof.Machine.execMovRmSreg rm sreg s
  | .pushRm rm => Sys2Proof.Machine.execPushRm rm s
  | .pushReg reg => Sys2Proof.Machine.execPushReg reg s
  | .pushEs => Sys2Proof.Machine.execPushEs s
  | .pushCs => Sys2Proof.Machine.execPushCs s
  | .pushSs => Sys2Proof.Machine.execPushSs s
  | .pushDs => Sys2Proof.Machine.execPushDs s
  | .pushImm16 imm => Sys2Proof.Machine.execPushImm16 imm s
  | .pushImm8 imm => Sys2Proof.Machine.execPushImm8 imm s
  | .pusha => Sys2Proof.Machine.execPusha s
  | .popRm rm => Sys2Proof.Machine.execPopRm rm s
  | .popReg reg => Sys2Proof.Machine.execPopReg reg s
  | .popEs => Sys2Proof.Machine.execPopEs s
  | .popSs => Sys2Proof.Machine.execPopSs s
  | .popDs => Sys2Proof.Machine.execPopDs s
  | .popa => Sys2Proof.Machine.execPopa s
  | .xchgRmReg w rm reg => Sys2Proof.Machine.execXchgRmReg w rm reg s
  | .nop => Sys2Proof.Machine.execNop s
  | .xchgAxReg reg => Sys2Proof.Machine.execXchgAxReg reg s
  | .inAccPort w port => Sys2Proof.Machine.execInAccPort w port s
  | .inAccDx w => Sys2Proof.Machine.execInAccDx w s
  | .outPortAcc w port => Sys2Proof.Machine.execOutPortAcc w port s
  | .outDxAcc w => Sys2Proof.Machine.execOutDxAcc w s
  | .xlat => Sys2Proof.Machine.execXlat s
  | .lea reg mem => Sys2Proof.Machine.execLea reg mem s
  | .lds reg mem => Sys2Proof.Machine.execLds reg mem s
  | .les reg mem => Sys2Proof.Machine.execLes reg mem s
  | .lahf => Sys2Proof.Machine.execLahf s
  | .sahf => Sys2Proof.Machine.execSahf s
  | .pushf => Sys2Proof.Machine.execPushf s
  | .popf => Sys2Proof.Machine.execPopf s
  | .addRmReg d w rm reg => Sys2Proof.Machine.execAddRmReg d w rm reg s
  | .addRmImm rm imm => Sys2Proof.Machine.execAddRmImm rm imm s
  | .addRm8Imm8 rm imm => Sys2Proof.Machine.execAddRm8Imm8 rm imm s
  | .addRm16Imm8 rm imm => Sys2Proof.Machine.execAddRm16Imm8 rm imm s
  | .addAccImm imm => Sys2Proof.Machine.execAddAccImm imm s
  | .adcRmReg d w rm reg => Sys2Proof.Machine.execAdcRmReg d w rm reg s
  | .adcRmImm rm imm => Sys2Proof.Machine.execAdcRmImm rm imm s
  | .adcRm8Imm8 rm imm => Sys2Proof.Machine.execAdcRm8Imm8 rm imm s
  | .adcRm16Imm8 rm imm => Sys2Proof.Machine.execAdcRm16Imm8 rm imm s
  | .adcAccImm imm => Sys2Proof.Machine.execAdcAccImm imm s
  | .subRmReg d w rm reg => Sys2Proof.Machine.execSubRmReg d w rm reg s
  | .subRmImm rm imm => Sys2Proof.Machine.execSubRmImm rm imm s
  | .subRm8Imm8 rm imm => Sys2Proof.Machine.execSubRm8Imm8 rm imm s
  | .subRm16Imm8 rm imm => Sys2Proof.Machine.execSubRm16Imm8 rm imm s
  | .subAccImm imm => Sys2Proof.Machine.execSubAccImm imm s
  | .sbbRmReg d w rm reg => Sys2Proof.Machine.execSbbRmReg d w rm reg s
  | .sbbRmImm rm imm => Sys2Proof.Machine.execSbbRmImm rm imm s
  | .sbbRm8Imm8 rm imm => Sys2Proof.Machine.execSbbRm8Imm8 rm imm s
  | .sbbRm16Imm8 rm imm => Sys2Proof.Machine.execSbbRm16Imm8 rm imm s
  | .sbbAccImm imm => Sys2Proof.Machine.execSbbAccImm imm s
  | .cmpRmReg d w rm reg => Sys2Proof.Machine.execCmpRmReg d w rm reg s
  | .cmpRmImm rm imm => Sys2Proof.Machine.execCmpRmImm rm imm s
  | .cmpRm8Imm8 rm imm => Sys2Proof.Machine.execCmpRm8Imm8 rm imm s
  | .cmpRm16Imm8 rm imm => Sys2Proof.Machine.execCmpRm16Imm8 rm imm s
  | .cmpAccImm imm => Sys2Proof.Machine.execCmpAccImm imm s
  | .andRmReg d w rm reg => Sys2Proof.Machine.execAndRmReg d w rm reg s
  | .andRmImm rm imm => Sys2Proof.Machine.execAndRmImm rm imm s
  | .andAccImm imm => Sys2Proof.Machine.execAndAccImm imm s
  | .orRmReg d w rm reg => Sys2Proof.Machine.execOrRmReg d w rm reg s
  | .orRmImm rm imm => Sys2Proof.Machine.execOrRmImm rm imm s
  | .orAccImm imm => Sys2Proof.Machine.execOrAccImm imm s
  | .xorRmReg d w rm reg => Sys2Proof.Machine.execXorRmReg d w rm reg s
  | .xorRmImm rm imm => Sys2Proof.Machine.execXorRmImm rm imm s
  | .xorAccImm imm => Sys2Proof.Machine.execXorAccImm imm s
  | .incRm w rm => Sys2Proof.Machine.execIncRm w rm s
  | .incReg reg => Sys2Proof.Machine.execIncReg reg s
  | .decRm w rm => Sys2Proof.Machine.execDecRm w rm s
  | .decReg reg => Sys2Proof.Machine.execDecReg reg s
  | .testRmImm rm imm => Sys2Proof.Machine.execTestRmImm rm imm s
  | .notRm w rm => Sys2Proof.Machine.execNotRm w rm s
  | .negRm w rm => Sys2Proof.Machine.execNegRm w rm s
  | .mulRm w rm => Sys2Proof.Machine.execMulRm w rm s
  | .imulRm w rm => Sys2Proof.Machine.execImulRm w rm s
  | .divRm w rm => Sys2Proof.Machine.execDivRm w rm s
  | .idivRm w rm => Sys2Proof.Machine.execIdivRm w rm s
  | .imulRegRmImm16 reg rm imm => Sys2Proof.Machine.execImulRegRmImm16 reg rm imm s
  | .imulRegRmImm8 reg rm imm => Sys2Proof.Machine.execImulRegRmImm8 reg rm imm s
  | .aaa => Sys2Proof.Machine.execAaa s
  | .aas => Sys2Proof.Machine.execAas s
  | .daa => Sys2Proof.Machine.execDaa s
  | .das => Sys2Proof.Machine.execDas s
  | .aam => Sys2Proof.Machine.execAam s
  | .aad => Sys2Proof.Machine.execAad s
  | .cbw => Sys2Proof.Machine.execCbw s
  | .cwd => Sys2Proof.Machine.execCwd s
  | .testRmReg w rm reg => Sys2Proof.Machine.execTestRmReg w rm reg s
  | .testAccImm imm => Sys2Proof.Machine.execTestAccImm imm s
  | .rolRm1 w rm => Sys2Proof.Machine.execRolRm1 w rm s
  | .rolRmCl w rm => Sys2Proof.Machine.execRolRmCl w rm s
  | .rolRmImm w rm count => Sys2Proof.Machine.execRolRmImm w rm count s
  | .rorRm1 w rm => Sys2Proof.Machine.execRorRm1 w rm s
  | .rorRmCl w rm => Sys2Proof.Machine.execRorRmCl w rm s
  | .rorRmImm w rm count => Sys2Proof.Machine.execRorRmImm w rm count s
  | .rclRm1 w rm => Sys2Proof.Machine.execRclRm1 w rm s
  | .rclRmCl w rm => Sys2Proof.Machine.execRclRmCl w rm s
  | .rclRmImm w rm count => Sys2Proof.Machine.execRclRmImm w rm count s
  | .rcrRm1 w rm => Sys2Proof.Machine.execRcrRm1 w rm s
  | .rcrRmCl w rm => Sys2Proof.Machine.execRcrRmCl w rm s
  | .rcrRmImm w rm count => Sys2Proof.Machine.execRcrRmImm w rm count s
  | .shlRm1 w rm => Sys2Proof.Machine.execShlRm1 w rm s
  | .shlRmCl w rm => Sys2Proof.Machine.execShlRmCl w rm s
  | .shlRmImm w rm count => Sys2Proof.Machine.execShlRmImm w rm count s
  | .shrRm1 w rm => Sys2Proof.Machine.execShrRm1 w rm s
  | .shrRmCl w rm => Sys2Proof.Machine.execShrRmCl w rm s
  | .shrRmImm w rm count => Sys2Proof.Machine.execShrRmImm w rm count s
  | .sarRm1 w rm => Sys2Proof.Machine.execSarRm1 w rm s
  | .sarRmCl w rm => Sys2Proof.Machine.execSarRmCl w rm s
  | .sarRmImm w rm count => Sys2Proof.Machine.execSarRmImm w rm count s
  | .movs w => Sys2Proof.Machine.execMovs w s
  | .cmps w => Sys2Proof.Machine.execCmps w s
  | .scas w => Sys2Proof.Machine.execScas w s
  | .lods w => Sys2Proof.Machine.execLods w s
  | .stos w => Sys2Proof.Machine.execStos w s
  | .ins w => Sys2Proof.Machine.execIns w s
  | .outs w => Sys2Proof.Machine.execOuts w s
  | .rep z => Sys2Proof.Machine.execRep z s
  | .callNear disp => Sys2Proof.Machine.execCallNear disp s
  | .callNearRm rm => Sys2Proof.Machine.execCallNearRm rm s
  | .callFar off seg => Sys2Proof.Machine.execCallFar off seg s
  | .callFarMem mem => Sys2Proof.Machine.execCallFarMem mem s
  | .jmpShort disp => Sys2Proof.Machine.execJmpShort disp s
  | .jmpNear disp => Sys2Proof.Machine.execJmpNear disp s
  | .jmpNearRm rm => Sys2Proof.Machine.execJmpNearRm rm s
  | .jmpFar off seg => Sys2Proof.Machine.execJmpFar off seg s
  | .jmpFarMem mem => Sys2Proof.Machine.execJmpFarMem mem s
  | .retNear => Sys2Proof.Machine.execRetNear s
  | .retNearImm k => Sys2Proof.Machine.execRetNearImm k s
  | .retFar => Sys2Proof.Machine.execRetFar s
  | .retFarImm k => Sys2Proof.Machine.execRetFarImm k s
  | .jo disp => Sys2Proof.Machine.execJo disp s
  | .jno disp => Sys2Proof.Machine.execJno disp s
  | .jb disp => Sys2Proof.Machine.execJb disp s
  | .jnb disp => Sys2Proof.Machine.execJnb disp s
  | .je disp => Sys2Proof.Machine.execJe disp s
  | .jne disp => Sys2Proof.Machine.execJne disp s
  | .jbe disp => Sys2Proof.Machine.execJbe disp s
  | .jnbe disp => Sys2Proof.Machine.execJnbe disp s
  | .js disp => Sys2Proof.Machine.execJs disp s
  | .jns disp => Sys2Proof.Machine.execJns disp s
  | .jp disp => Sys2Proof.Machine.execJp disp s
  | .jnp disp => Sys2Proof.Machine.execJnp disp s
  | .jl disp => Sys2Proof.Machine.execJl disp s
  | .jnl disp => Sys2Proof.Machine.execJnl disp s
  | .jle disp => Sys2Proof.Machine.execJle disp s
  | .jnle disp => Sys2Proof.Machine.execJnle disp s
  | .loop disp => Sys2Proof.Machine.execLoop disp s
  | .loopz disp => Sys2Proof.Machine.execLoopz disp s
  | .loopnz disp => Sys2Proof.Machine.execLoopnz disp s
  | .jcxz disp => Sys2Proof.Machine.execJcxz disp s
  | .intType type => Sys2Proof.Machine.execIntType type s
  | .int3 => Sys2Proof.Machine.execInt3 s
  | .into => Sys2Proof.Machine.execInto s
  | .iret => Sys2Proof.Machine.execIret s
  | .enter size level => Sys2Proof.Machine.execEnter size level s
  | .leave => Sys2Proof.Machine.execLeave s
  | .bound reg mem => Sys2Proof.Machine.execBound reg mem s
  | .clc => Sys2Proof.Machine.execClc s
  | .stc => Sys2Proof.Machine.execStc s
  | .cmc => Sys2Proof.Machine.execCmc s
  | .cld => Sys2Proof.Machine.execCld s
  | .std => Sys2Proof.Machine.execStd s
  | .cli => Sys2Proof.Machine.execCli s
  | .sti => Sys2Proof.Machine.execSti s
  | .hlt => Sys2Proof.Machine.execHlt s
  | .wait => Sys2Proof.Machine.execWait s
  | .lock => Sys2Proof.Machine.execLock s
  | .esc ttt lll rm => Sys2Proof.Machine.execEsc ttt lll rm s
  | .segEs => Sys2Proof.Machine.execSegEs s
  | .segCs => Sys2Proof.Machine.execSegCs s
  | .segSs => Sys2Proof.Machine.execSegSs s
  | .segDs => Sys2Proof.Machine.execSegDs s

end Sys2Proof.Machine
end

