-- ==== Sys2Proof/Machine/Boundary.lean ====
section
/-! DEFINITION. The instruction boundary (R471, R472): what is recognised there and in which order, and the
acknowledge of a maskable request (R495, R524). -/

namespace Sys2Proof.Machine

/-- The offset an interrupt taken here returns to: IP_start inside a repeated string instruction or the
WAIT loop, else the next instruction (R361, R441, R471). -/
def State.resumeIp (s : State) : Word :=
  match s.activity with
  | .repeating _ _ => s.ipStart
  | .waiting => s.ipStart
  | .running => s.ip
  | .halted => s.ip

/-- An interrupt taken at a boundary: the instruction under way is left, then the sequence runs (R471,
R363). -/
def takeInterrupt (n : Byte) (s : State) : Out := interrupt n s.resumeIp s.leaveInstruction

/-- Whether the controller presents a request: in iRMX mode the INT0 pin (R524), else an eligible source
(R493). -/
def State.presents (s : State) : Bool := if s.rmx then s.pins.int0 else s.presented.isSome

/-- An acknowledge output goes LOW for the two INTA cycles of an acknowledge (R496, R521). -/
def State.pulseAck (s : State) (p : Pin) : State := { s with acks := p :: s.acks }

/-- The acknowledge output of a source in cascade mode: INTA0 on INT2 for INT0, INTA1 on INT3 for INT1 (R495, R496).
That an internally vectored source shows no INTA cycle is the model's choice: R495 says that the source is silent on it
(log 45). -/
def State.intaCycles (s : State) (k : IntSource) : State :=
  if s.intc.cascade k then s.pulseAck (if k = .i0 then .int2 else .int3) else s

/-- The acknowledge in iRMX mode (R524), with INT2 as its output (R521): this slave's vector if INT1 selects it, else the
external byte. That INT1 HIGH is "selected" is the model's choice: the spec names no level (R521, R524; log 44). -/
def acknowledgeRmx (s : State) : Out :=
  let t := s.pulseAck .int2
  if s.pins.int1 then
    if s.intc.rmxLevelsOk then
      match s.intc.rmxPresented with
      | some k => takeInterrupt (s.intc.rmxVector k) { t with intc := s.intc.rmxAcknowledged k }
      | none => .fault .irmxNoSource
    else .fault .irmxLevels
  else takeInterrupt s.intaByte t

/-- The acknowledge in master mode (R495). -/
def acknowledgeMaster (s : State) : Out :=
  match s.presented with
  | some k => takeInterrupt (s.ackVector k) ((s.intaCycles k).acknowledged k)
  | none => .next s

/-- A maskable request acknowledged and its interrupt taken. -/
def takeMaskable (s : State) : Out := if s.rmx then acknowledgeRmx s else acknowledgeMaster s

/-- NMI: the latch is cleared and DHLT set, then type 2 is taken (R472, R475). -/
def takeNmi (s : State) : Out :=
  takeInterrupt 2 { s with nmiLatch := false, intc := { s.intc with dhlt := true } }

/-- The hardware arm of the boundary: NMI first, else a maskable request if IF = 1 and none is held off
(R472). -/
def takeHardware (hold : Bool) (s : State) : Out :=
  if s.nmiLatch then takeNmi s
  else if s.flags.ifl && !hold && s.presents then takeMaskable s
  else .next s

/-- Whether the boundary takes an interrupt, which needs the bus (R472). -/
def State.interrupts (s : State) (t wait : Bool) : Bool :=
  s.nmiLatch || (s.flags.ifl && !s.inhibitInt && s.presents) || (t && !wait)

/-- A boundary that waits while the bus is granted: a locked repeated instruction is left, to start again with its
prefixes, so that the lock ends (R363, D18, R600; log 32). -/
def State.awaitBus (s : State) (t wait : Bool) : State :=
  let left := match s.activity with
    | .repeating _ _ => { s with ip := s.ipStart }.leaveInstruction
    | _ => s
  { left with due := some { traced := t, wait := wait } }

/-- `boundary(t)` (R472): `t` is TF at the start of the step just ended, `wait` whether it was WAIT. After a locked
instruction HOLD may be HIGH; the bus is then granted before the interrupt's first cycle (R600). -/
def boundary (t wait : Bool) (s : State) : Out :=
  let hold := s.inhibitInt
  if s.pins.hold && !s.inhibit && s.interrupts t wait then .next (s.awaitBus t wait)
  else
  let s := { s with inhibitInt := false }
  if s.inhibit then .next { s with inhibit := false }
  else andThen (takeHardware hold s) fun s => if t && !wait then takeInterrupt 1 s else .next s

end Sys2Proof.Machine
end

