-- ==== Sys2Proof/Machine/Fetch.lean ====
section
/-! DEFINITION. One step of the CPU: fetching through the prefetch queue (R160 to R162, R171), decoding, and
running one prefix, one instruction, one element of a repeated one, or one look while halted or waiting
(R7, R48). -/

namespace Sys2Proof.Machine

/-! ### Fetching -/

/-- The byte a fetch sees at `a`: what memory holds, or an overwritten value the queue may still have
(R162; log 12). -/
def seenByte (draw : Nat) (a : Addr) (now : Byte) : Nat → List StaleByte → Byte
  | _, [] => now
  | i, e :: rest =>
    if decide (e.addr = a) && decide (e.ahead < Config.queueDepth) && Config.seesStale draw i then e.old
    else seenByte draw a now (i + 1) rest

/-- The physical address of the k-th byte from IP on; the offset wraps in the segment (R31, R171). -/
def State.codeAddr (s : State) (k : Nat) : Addr := phys s.segs.cs (s.ip + BitVec.ofNat 16 k)

/-- The k-th byte from IP on, as a fetch sees it: a device's byte is what it presents (D3). -/
def State.fetchByte (s : State) (k : Nat) : Byte :=
  match s.place (s.codeAddr k) with
  | .device => s.deviceByteAt (s.free + k) (s.codeAddr k)
  | _ => seenByte (s.free + k) (s.codeAddr k) (s.loadByte (s.codeAddr k)) 0 s.stale

/-- The six bytes of the longest instruction, from IP on. -/
def State.fetchBytes (s : State) : List Byte :=
  [s.fetchByte 0, s.fetchByte 1, s.fetchByte 2, s.fetchByte 3, s.fetchByte 4, s.fetchByte 5]

/-- Fetching draws on the free values only where the queue may hold overwritten bytes or a device may answer. -/
def State.fetched (s : State) : State := if s.stale = [] ∧ s.memMap = [] then s else s.drawn 6

/-- What the fetch of the k-th byte from IP on is refused for: the control block (R65; log 17), an address with
nothing (D3). -/
def State.fetchRefused (s : State) (k : Nat) : Option Refusal :=
  if s.blockInMem (s.codeAddr k) then some .blockAccess
  else if s.vacant .byte (s.codeAddr k) then some .unpopulated
  else none

/-- What the fetch of the first `n` bytes from IP on is refused for. -/
def State.fetchesRefused (s : State) : Nat → Option Refusal
  | 0 => none
  | n + 1 =>
    match s.fetchesRefused n with
    | some r => some r
    | none => s.fetchRefused n

/-- IP_start is the offset of the first byte, prefixes included (R31). -/
def State.markStart (s : State) : State := if s.pfx = .none then { s with ipStart := s.ip } else s

/-- IP moved past `n` bytes, modulo 2^16 (R31). -/
def State.advance (s : State) (n : Nat) : State := { s with ip := s.ip + BitVec.ofNat 16 n }

/-! ### Running -/

/-- The prefix bytes (R172). -/
def isPrefix : Instr → Bool
  | .rep _ => true
  | .lock => true
  | .segEs => true
  | .segCs => true
  | .segSs => true
  | .segDs => true
  | _ => false

/-- The string instructions, which alone take a repeat prefix (R192). -/
def isString : Instr → Bool
  | .movs _ => true
  | .cmps _ => true
  | .scas _ => true
  | .lods _ => true
  | .stos _ => true
  | .ins _ => true
  | .outs _ => true
  | _ => false

/-- The instruction a repetition goes on with. -/
def stringInstr (op : StringOp) (w : Width) : Instr :=
  match op with
  | .movs => .movs w
  | .cmps => .cmps w
  | .scas => .scas w
  | .lods => .lods w
  | .stos => .stos w
  | .ins => .ins w
  | .outs => .outs w

/-- The prefixes are used up once the instruction is over (R172). -/
def State.endInstruction (s : State) : State :=
  match s.activity with
  | .running => { s with pfx := .none }
  | .halted => { s with pfx := .none }
  | .waiting => s
  | .repeating _ _ => s

/-- An instruction run, then its boundary (R471, R472); a prefix has none. -/
def runInstr (i : Instr) (s : State) : Out :=
  if isPrefix i then exec i s
  else andThen (exec i s) fun s' => boundary s.flags.tf (decide (i = .wait)) s'.endInstruction

/-- An unlisted encoding of `n` bytes: type 6 with the return address after them (R190, R466; log 14). -/
def runUnlisted (c : Unlisted) (s : State) : Out :=
  if Config.raisesUnusedOpcode c then
    andThen (interrupt 6 s.ip s) fun s' => boundary s.flags.tf false s'
  else .refused .unlistedOpcode

/-- How many bytes of an instruction of `n` bytes are fetched: of ESC with ET = 1 only the first, which raises type 7
(R445, R467). -/
def State.fetchLength (s : State) (i : Instr) (n : Nat) : Nat :=
  match i with
  | .esc _ _ _ => if s.reloc.getLsbD 15 then 1 else n
  | _ => n

/-- What was decoded is run. -/
def runDecoded (d : Decoded) (s : State) : Out :=
  match d with
  | .instr i n =>
    match s.fetchesRefused (s.fetchLength i n) with
    | some r => .refused r
    | none =>
      if s.pfx.rep.isSome && !isPrefix i && !isString i then .refused .repeatNonString
      else runInstr i (s.advance n)
  | .unlisted c n =>
    match s.fetchesRefused n with
    | some r => .refused r
    | none => runUnlisted c (s.advance n)
  | .movToCs => .refused .movToCs
  | .truncated => .refused .truncated

/-- The next instruction or prefix byte fetched and run. -/
def fetchAndRun (s : State) : Out := runDecoded (decode s.fetchBytes) s.markStart.fetched

/-- One step of the CPU that begins at a boundary already passed. -/
def cpuMove (s : State) : Out :=
  match s.activity with
  | .running => fetchAndRun s
  | .halted => boundary false false s
  | .waiting => runInstr .wait s
  | .repeating op w => runInstr (stringInstr op w) s

/-- One step of the CPU (R7): first of all the boundary that has waited for the bus (R600). -/
def cpuStep (s : State) : Out :=
  match s.due with
  | some d => boundary d.traced d.wait { s with due := none }
  | none => cpuMove s

end Sys2Proof.Machine
end

