-- ==== Sys2Proof/Machine/Turn.lean ====
section
/-! DEFINITION. Who moves in a step (R7, R156, R530): the CPU, a DMA channel, a timer, or the host. -/

namespace Sys2Proof.Machine

/-! ### The bus -/

/-- Between two steps the bus is locked inside a LOCKed repeated string instruction (R152, R363). -/
def State.locked (s : State) : Bool :=
  s.pfx.lock &&
    match s.activity with
    | .repeating _ _ => true
    | _ => false

/-- HLDA: the bus is granted to an external master (R600). -/
def State.granted (s : State) : Bool := s.pins.hold && !s.locked

/-- The CPU takes the bus that a destination-synchronised transfer left to it (R562; log 22). -/
def State.takeBus (s : State) : State := { s with dma := { s.dma with yielded := false } }

/-- The CPU's turn: while the bus is granted it waits (R600; log 32). -/
def cpuTurn (s : State) : Out :=
  if s.granted then .next s else cpuStep s.takeBus

/-- A DMA channel's turn; where it may not transfer nothing happens (R562, R567). -/
def dmaTurn (c : Channel) (s : State) : Out :=
  if !s.granted && !s.locked && s.dmaMayGo c then dmaTransfer c s else .next s

/-- The channel that goes when the agenda says nothing: a free choice where the rules leave one (R566;
log 22). -/
def State.dmaNext (s : State) : Option Channel :=
  if s.dmaMayGo .c0 && s.dmaMayGo .c1 then some (if s.freeBit 0 then .c0 else .c1)
  else if s.dmaMayGo .c0 then some .c0
  else if s.dmaMayGo .c1 then some .c1
  else none

/-- The turn an empty agenda stands for: a DMA channel that may go comes before the CPU (R567), but for
the bus relinquished after a destination-synchronised transfer (R562; log 22). -/
def defaultTurn (s : State) : Out :=
  if s.granted || s.locked || s.dma.yielded then cpuTurn s
  else match s.dmaNext with
    | some c => dmaTurn c (if s.dmaMayGo .c0 && s.dmaMayGo .c1 then s.drawn 1 else s)
    | none => cpuTurn s

/-! ### The host -/

/-- RES: the machine as after reset, but for memory and what is outside the chip; an INT pin that is HIGH
is not armed (R620, R621, R492; log 40). -/
def State.resetPulse (s : State) : State :=
  { State.reset with
    mem := s.mem, memMap := s.memMap, ioMap := s.ioMap, memDevices := s.memDevices, memLog := s.memLog
    ports := s.ports, portLog := s.portLog, pins := s.pins, intaByte := s.intaByte, acks := s.acks
    intc := { Intc.reset with armed0 := !s.pins.int0, armed1 := !s.pins.int1, armed2 := !s.pins.int2
                              armed3 := !s.pins.int3 }
    agenda := s.agenda, free := s.free }

/-- An entry meant for the inside of a step, met outside one: RES and the outside world wait for no cycle (log 8). -/
def leftOver (b : Between) (s : State) : State :=
  match b with
  | .world w => s.world w
  | .reset => s.resetPulse
  | .pass => s
  | .dma _ => s
  | .master _ => s
  | .midMaster _ _ => s
  | .midReset _ => s
  | .byteOrder _ => s
  | .dmaReset => s
  | .pushesFirst => s

/-- One entry of the agenda. -/
def takeTurn (t : Turn) (s : State) : Out :=
  match t with
  | .cpu => cpuTurn s
  | .dma c => dmaTurn c s
  | .master m => if s.granted then masterMoves m s else .next s
  | .world w => .next (s.world w)
  | .reset => .next s.resetPulse
  | .between b => .next (leftOver b s)

/-- A step that RES ended between two of its bus cycles is the reset of what had been done by then (R620). -/
def endedByRes (x : Out) : Out :=
  match x with
  | .next s => .next s
  | .fault (.res s) => .next s.resetPulse
  | .fault r => .fault r
  | .refused r => .refused r

/-- A step of the whole machine: the head of the agenda moves, or the default turn is taken (log 7). -/
def machineStep (s : State) : Out :=
  endedByRes
    (match s.agenda with
    | [] => defaultTurn s
    | t :: rest => takeTurn t (s.setAgenda rest))

/-! ### Placing an instruction -/

/-- Bytes stored at successive offsets of the code segment from `off` on. -/
def placeBytes (cs off : Word) : List Byte → Memory → Memory
  | [], m => m
  | b :: rest, m => placeBytes cs (off + 1) rest (m.put (phys cs off).toNat b)

/-- The instruction of an opcode-table word placed at CS:IP, the CPU set to fetch there with no prefix
pending and to move next (log 29). -/
def State.placeWord (s : State) (nbits w : Nat) : State :=
  { s with
    mem := placeBytes s.segs.cs s.ip (tableBytes nbits w) s.mem
    stale := []
    due := none
    pfx := .none
    activity := .running
    pins := { s.pins with hold := false }
    agenda := [.cpu] }

end Sys2Proof.Machine
end

