-- ==== Sys2Proof/Machine/ChipSelect.lean ====
section
/-! DEFINITION. The outputs of the chip: chip selects (R540 to R550) with their READY modes (R71), timer outputs
(R588), acknowledge outputs (R496, R521), LOCK (R152), HLDA (R600). They never change what the machine does (R165). A
programming the spec leaves undefined has no specified output: `none` (U7, U10, U23; log 16). -/

namespace Sys2Proof.Machine

/-- A UMCS value of Table 7, whatever its READY bits (R66). -/
def umcsLegal (v : Word) : Bool :=
  [0xFFF8#16, 0xFFB8#16, 0xFF38#16, 0xFE38#16, 0xFC38#16, 0xF838#16, 0xF038#16, 0xE038#16,
    0xC038#16].contains (v &&& 0xFFF8#16)

/-- An LMCS value of Table 8, whatever its READY bits (R67). -/
def lmcsLegal (v : Word) : Bool :=
  [0x0038#16, 0x0078#16, 0x00F8#16, 0x01F8#16, 0x03F8#16, 0x07F8#16, 0x0FF8#16, 0x1FF8#16,
    0x3FF8#16].contains (v &&& 0xFFF8#16)

/-- The mid-range block size of MPCS bits 14 to 8 (Table 9, R70); none unless exactly one is set. -/
def midSize (mpcs : Word) : Option Nat :=
  match (mpcs.extractLsb' 8 7).toNat with
  | 1 => some 0x2000
  | 2 => some 0x4000
  | 4 => some 0x8000
  | 8 => some 0x10000
  | 16 => some 0x20000
  | 32 => some 0x40000
  | 64 => some 0x80000
  | _ => none

/-- The mid-range base address (R69). -/
def midBase (mmcs : Word) : Nat := (mmcs.extractLsb' 9 7).toNat * 0x2000

/-- The base of the peripheral block (R544). -/
def periphBase (pacs : Word) : Nat := (pacs.extractLsb' 6 10).toNat * 0x400

/-! ### Enabled ranges -/

/-- The memory from `first` up to, but not including, `past`. -/
structure Span where
  first : Nat
  past : Nat
  deriving DecidableEq, Repr

/-- Whether an address lies in the span. -/
def Span.holds (r : Span) (a : Nat) : Bool := decide (r.first ≤ a) && decide (a < r.past)

/-- Whether two spans have an address in common. -/
def Span.meets (r q : Span) : Bool := decide (r.first < q.past) && decide (q.first < r.past)

/-- The four kinds of memory range a chip select can be programmed to. -/
inductive SelectRange where
  | upper
  | lower
  | mid
  | periph
  deriving DecidableEq, Repr

/-- The range of UCS (R541), which is enabled from reset (R550). -/
def ChipSel.upperSpan (c : ChipSel) : Option Span :=
  if umcsLegal c.umcs then some { first := (c.umcs &&& 0xFFC0#16).toNat * 16, past := 0x100000 } else none

/-- The range of LCS, once LMCS has been accessed (R542). -/
def ChipSel.lowerSpan (c : ChipSel) : Option Span :=
  if c.lmcsOn && lmcsLegal c.lmcs then some { first := 0, past := ((c.lmcs ||| 0x003F#16).toNat + 1) * 16 } else none

/-- The mid-range block, once MMCS and MPCS have been accessed: one legal size, at a multiple of it, and at 0 for 512K
(R543, R546). -/
def ChipSel.midSpan (c : ChipSel) : Option Span :=
  match midSize c.mpcs with
  | none => none
  | some size =>
    if c.mmcsOn && c.mpcsOn && decide (midBase c.mmcs % size = 0) && (decide (size ≠ 0x80000) || decide (midBase c.mmcs = 0))
    then some { first := midBase c.mmcs, past := midBase c.mmcs + size } else none

/-- The peripheral block where it is in memory, five or seven lines long (R544, R545). -/
def ChipSel.periphSpan (c : ChipSel) : Option Span :=
  if c.pacsOn && c.mpcsOn && c.mpcs.getLsbD 6 then
    some { first := periphBase c.pacs, past := periphBase c.pacs + 128 * (if c.mpcs.getLsbD 7 then 7 else 5) }
  else none

/-- The range of a kind where it is enabled and legal. -/
def ChipSel.span (c : ChipSel) : SelectRange → Option Span
  | .upper => c.upperSpan
  | .lower => c.lowerSpan
  | .mid => c.midSpan
  | .periph => c.periphSpan

/-- Whether the range of a kind has an address in common with an enabled one of another kind (R546, U23). -/
def ChipSel.overlapped (c : ChipSel) (k : SelectRange) : Bool :=
  [SelectRange.upper, .lower, .mid, .periph].any fun j =>
    decide (j ≠ k) &&
      match c.span k, c.span j with
      | some r, some q => r.meets q
      | _, _ => false

/-! ### Chip selects -/

/-- UCS for a memory address (R541). -/
def ChipSel.ucs (c : ChipSel) (a : Addr) : Option Bool :=
  if c.overlapped .upper then none else c.upperSpan.map fun r => r.holds a.toNat

/-- LCS for a memory address (R542). -/
def ChipSel.lcs (c : ChipSel) (a : Addr) : Option Bool :=
  if !c.lmcsOn then some false
  else if c.overlapped .lower then none else c.lowerSpan.map fun r => r.holds a.toNat

/-- MCS k for a memory address: one quarter of the block (R543). -/
def ChipSel.mcs (c : ChipSel) (k : Fin 4) (a : Addr) : Option Bool :=
  if !(c.mmcsOn && c.mpcsOn) then some false
  else if c.overlapped .mid then none
  else c.midSpan.map fun r =>
    let quarter := (r.past - r.first) / 4
    Span.holds { first := r.first + k.val * quarter, past := r.first + (k.val + 1) * quarter } a.toNat

/-- PCS k for a cycle at an address of memory (`io = false`) or I/O space (R544, R545); PCS5 and PCS6 are
address bits A1 and A2 when EX = 0. -/
def ChipSel.pcs (c : ChipSel) (k : Fin 7) (io : Bool) (a : Nat) : Option Bool :=
  if !(c.pacsOn && c.mpcsOn) then some false
  else if 5 ≤ k.val && !c.mpcs.getLsbD 7 then none
  else if !c.mpcs.getLsbD 6 && decide (c.pacs.extractLsb' 12 4 ≠ 0) then none
  else if c.overlapped .periph then none
  else some (decide (io = !c.mpcs.getLsbD 6) &&
    Span.holds { first := periphBase c.pacs + 128 * k.val, past := periphBase c.pacs + 128 * (k.val + 1) } a)

/-- Pin PCS5/A1 or PCS6/A2 with EX = 0 carries a latched address bit (R545), once PACS and MPCS have been accessed
(R550). -/
def ChipSel.latchedAddress (c : ChipSel) (second : Bool) (a : Addr) : Option Bool :=
  if c.pacsOn && c.mpcsOn && !c.mpcs.getLsbD 7 then some (a.getLsbD (if second then 2 else 1)) else none

/-! ### READY modes -/

/-- The READY mode of a control register: wait states, and whether external READY is ignored (R71). -/
def readyMode (v : Word) : Nat × Bool := ((v.extractLsb' 0 2).toNat, v.getLsbD 2)

/-- The chip-select outputs. -/
inductive Select where
  | ucs
  | lcs
  | mcs (k : Fin 4)
  | pcs (k : Fin 7)
  deriving DecidableEq, Repr

/-- The register whose READY bits a chip select's block follows: PACS for PCS0 to PCS3, MPCS for PCS4 to PCS6 (R71). -/
def ChipSel.readyRegister (c : ChipSel) : Select → Word
  | .ucs => c.umcs
  | .lcs => c.lmcs
  | .mcs _ => c.mmcs
  | .pcs k => if k.val ≤ 3 then c.pacs else c.mpcs

/-- The READY mode of a chip select's block (R71, R553). -/
def ChipSel.readyFor (c : ChipSel) (k : Select) : Nat × Bool := readyMode (c.readyRegister k)

/-! ### Other outputs -/

/-- TMR OUT 0 and TMR OUT 1 (R588). -/
def State.tmrOut (s : State) : TimerId → Option Bool
  | .t0 => some s.timers.t0.outLevel
  | .t1 => some s.timers.t1.outLevel
  | .t2 => none

/-- HLDA (R600). -/
def State.hlda (s : State) : Bool := s.granted

/-- Whether LOCK is active, which is LOW: during the data cycles of the instruction under way if it has the prefix, and
between two steps inside a locked repeated string instruction (R152, R363). -/
def State.lockOut (s : State) (inCycle : Bool) : Bool := if inCycle then s.pfx.lock else s.locked

/-- The pins that are acknowledge outputs: INTA0 and INTA1 in cascade mode (R496), INT2 in iRMX mode (R521). They go LOW
where `acks` records them. -/
def State.ackOutput (s : State) : Pin → Bool
  | .int2 => s.rmx || s.intc.cas0
  | .int3 => !s.rmx && s.intc.cas1
  | _ => false

/-- INT3 as the slave's request in iRMX mode (R521, R523). -/
def State.int3Out (s : State) : Option Bool := if s.rmx then some s.slaveRequest else none

end Sys2Proof.Machine
end

