-- ==== Sys2Proof/Safety.lean ====
section
/-! DEFINITION. The terms the statements use: plain places of memory and of the port space, the invariant
every step keeps, and runs that stop nowhere. -/

namespace Sys2Proof.Safety

open Sys2Proof.Machine

/-! ### Plain places -/

/-- The byte at a physical address is plain memory: RAM outside the control block (D3, R61, R65). -/
def plainByte (s : State) (a : Addr) : Bool := !s.blockInMem a && decide (s.place a = .ram)

/-- The access of a width at a physical address reaches plain memory. -/
def plainAt (s : State) (w : Width) (a : Addr) : Bool :=
  match w with
  | .byte => plainByte s a
  | .word => plainByte s a && plainByte s (a + 1)

/-- The access of a width at an offset of a segment reaches plain memory and lies within the segment
(R142). -/
def plain (s : State) (w : Width) (seg off : Word) : Bool :=
  match w with
  | .byte => plainAt s .byte (phys seg off)
  | .word => decide (off ≠ 0xFFFF#16) && plainAt s .word (phys seg off)

/-- The operand is a register or a plain place (R186). -/
def plainLoc (s : State) (w : Width) : Loc → Bool
  | .reg _ => true
  | .mem seg off => plain s w seg off

/-- A 32-bit pointer at an offset lies within the segment and in plain memory (R142, R145). -/
def plainPointer (s : State) (seg off : Word) : Bool :=
  decide (off.toNat < 0xFFFD) && plain s .word seg off && plain s .word seg (off + 2)

/-- The n words below SP are plain (R228). -/
def roomFor (s : State) : Nat → Bool
  | 0 => true
  | n + 1 => plain s .word s.segs.ss (s.regs.sp - BitVec.ofNat 16 (2 * (n + 1))) && roomFor s n

/-- The n words from SP on are plain (R233). -/
def heldOn (s : State) : Nat → Bool
  | 0 => true
  | n + 1 => plain s .word s.segs.ss (s.regs.sp + BitVec.ofNat 16 (2 * n)) && heldOn s n

/-- The table entry of a vector type is plain memory (R462). -/
def plainVector (s : State) (n : Byte) : Bool :=
  plainAt s .word (n.setWidth 20 <<< 2) && plainAt s .word ((n.setWidth 20 <<< 2) + 2)

/-- A port is plain: a device answers there, it is not reserved and not in the control block (D3, R150, R151). -/
def plainPortByte (s : State) (p : Word) : Bool :=
  !reservedPort p && !s.blockInIO p && deviceIn s.ioMap p.toNat

/-- A port access of a width reaches plain ports. -/
def plainPort (s : State) (w : Width) (p : Word) : Bool :=
  match w with
  | .byte => plainPortByte s p
  | .word => plainPortByte s p && plainPortByte s (p + 1)

/-! ### Values at plain places -/

/-- What a plain place holds. -/
def valueAt (s : State) (w : Width) (a : Addr) : BitVec w.bits :=
  match w with
  | .byte => s.loadByte a
  | .word => s.loadWord a

/-- The state after a store at a plain place. -/
def storeAt (s : State) (w : Width) (a : Addr) (v : BitVec w.bits) : State :=
  match w with
  | .byte => s.storeByte a v
  | .word => s.storeWord a v

/-- What an operand at a plain place holds. -/
def valueOf (s : State) (w : Width) : Loc → BitVec w.bits
  | .reg r => s.getReg w r
  | .mem seg off => valueAt s w (phys seg off)

/-- The state after an operand at a plain place is written. -/
def putOf (s : State) (w : Width) (l : Loc) (v : BitVec w.bits) : State :=
  match l with
  | .reg r => s.setReg w r v
  | .mem seg off => storeAt s w (phys seg off) v

/-- The state after a push onto a plain place (R228). -/
def pushed (s : State) (v : Word) : State :=
  (s.setSp (s.regs.sp - 2)).storeWord (phys s.segs.ss (s.regs.sp - 2)) v

/-- What a plain port presents, and the state after the read (R150, D3). -/
def portValue (s : State) (w : Width) (p : Word) : BitVec w.bits × State :=
  match w with
  | .byte => s.devicePort p
  | .word =>
    (wordOfBytes (s.devicePort p).1 ((s.devicePort p).2.devicePort (p + 1)).1,
      ((s.devicePort p).2.devicePort (p + 1)).2)

/-- The state after the interrupt sequence over plain places (R470): FLAGS, CS and the return offset pushed,
IF and TF cleared, control at the address of the table entry. -/
def interrupted (s : State) (n : Byte) (ret : Word) : State :=
  ((pushed (pushed (pushed s s.flags.image).maskTraps s.segs.cs) ret).farJump
    (s.loadWord ((n.setWidth 20 <<< 2) + 2)) (s.loadWord (n.setWidth 20 <<< 2))).leaveInstruction

/-- Whether a physical address is one of the bytes of the operand. -/
def Covers (w : Width) (l : Loc) (a : Addr) : Prop :=
  match l with
  | .reg _ => False
  | .mem seg off => a = phys seg off ∨ (w = .word ∧ a = phys seg off + 1)

/-- The low eight bits have an even number of 1-bits (R35). -/
def evenParity {n : Nat} (r : BitVec n) : Prop := (List.range 8).countP (fun i => r.getLsbD i) % 2 = 0

/-! ### Two-operand forms -/

/-- The destination of `op r/m, reg` or `op reg, r/m` (R180). -/
def dstOf (s : State) (d : Dir) (rm : RM) (reg : Reg) : Loc :=
  match d with
  | .toRm => s.locate rm
  | .toReg => .reg reg

/-- The source of `op r/m, reg` or `op reg, r/m` (R180). -/
def srcOf (s : State) (d : Dir) (rm : RM) (reg : Reg) : Loc :=
  match d with
  | .toRm => .reg reg
  | .toReg => s.locate rm

/-- The state after `l <- l + b + c` with the flags of the addition (R17). -/
def sumTo (s : State) (w : Width) (l : Loc) (b : BitVec w.bits) (c : Bool) : State :=
  putOf (s.setFlags (s.flags.add (valueOf s w l) b c)) w l (addResult (valueOf s w l) b c)

/-- The state after `l <- l - b - c` with the flags of the subtraction (R17). -/
def diffTo (s : State) (w : Width) (l : Loc) (b : BitVec w.bits) (c : Bool) : State :=
  putOf (s.setFlags (s.flags.sub (valueOf s w l) b c)) w l (subResult (valueOf s w l) b c)

/-- The state after `l - b` for its flags alone (R295). -/
def compared (s : State) (w : Width) (a b : BitVec w.bits) : State :=
  s.setFlags (s.flags.sub a b false)

/-- The state after a logical result is written with its flags (R17). -/
def logicalTo (s : State) (w : Width) (l : Loc) (r : BitVec w.bits) : State := putOf (s.logicFlags r) w l r

/-- The state after a shift or rotate by a raw count (R342). -/
def shifted (s : State) (op : ShiftOp) (w : Width) (l : Loc) (count : Byte) : State :=
  let n := shiftCount count
  let r := op.run n (valueOf s w l) s.flags.cf
  if n = 0 then s else putOf (s.shiftFlags op n (valueOf s w l) r.1 r.2) w l r.1

/-- The state after a conditional jump (R385). -/
def jumped (s : State) (cond : Bool) (disp : Byte) : State :=
  if cond then s.jump (s.ip + disp.signExtend 16) else s

/-- The word at the k-th place above SP (R233). -/
def stackWord (s : State) (k : Nat) : Word := s.loadWord (phys s.segs.ss (s.regs.sp + BitVec.ofNat 16 (2 * k)))

/-- The first k words of the display are plain (R420). -/
def displayHeld (s : State) : Nat → Bool
  | 0 => true
  | k + 1 => plain s .word s.segs.ss (s.regs.bp - BitVec.ofNat 16 (2 * (k + 1))) && displayHeld s k

/-- A packed decimal byte of a number below 100 (R18). -/
def packed (n : Nat) : Byte := BitVec.ofNat 8 (16 * (n / 10 % 10) + n % 10)

/-- The two states agree on everything but general registers, flags and the count of free values. -/
def SameButRegsFlags (s t : State) : Prop := t = { s with regs := t.regs, flags := t.flags, free := t.free }

/-- TF, IF and DF agree (R37). -/
def SameControlFlags (s t : State) : Prop :=
  t.flags.tf = s.flags.tf ∧ t.flags.ifl = s.flags.ifl ∧ t.flags.df = s.flags.df

/-! ### String elements -/

/-- The places an element of a string instruction touches are plain (R350 to R357). -/
def elementHeld (s : State) (op : StringOp) (w : Width) : Bool :=
  match op with
  | .movs => plain s w (s.segment .ds) s.regs.si && plain s w s.segs.es s.regs.di
  | .cmps => plain s w (s.segment .ds) s.regs.si && plain s w s.segs.es s.regs.di
  | .scas => plain s w s.segs.es s.regs.di
  | .lods => plain s w (s.segment .ds) s.regs.si
  | .stos => plain s w s.segs.es s.regs.di
  | .ins => plainPort s w s.regs.dx && plain s w s.segs.es s.regs.di
  | .outs => plain s w (s.segment .ds) s.regs.si && plainPort s w s.regs.dx

/-- The element at the source (R350). -/
def sourceElement (s : State) (w : Width) : BitVec w.bits := valueAt s w (phys (s.segment .ds) s.regs.si)

/-- The element at ES:DI (R350). -/
def destElement (s : State) (w : Width) : BitVec w.bits := valueAt s w (phys s.segs.es s.regs.di)

/-- The element at ES:DI written. -/
def putElement (s : State) (w : Width) (v : BitVec w.bits) : State := storeAt s w (phys s.segs.es s.regs.di) v

/-- How far SI and DI move: the element's size, down when DF = 1 (R350). -/
def stride (s : State) (w : Width) : Word :=
  match w, s.flags.df with
  | .byte, false => 1
  | .byte, true => -1
  | .word, false => 2
  | .word, true => -2

/-- The state after one element over plain places (R351 to R357). -/
def elementDone (s : State) (op : StringOp) (w : Width) : State :=
  let si := s.regs.si + stride s w
  let di := s.regs.di + stride s w
  match op with
  | .movs => ((putElement s w (sourceElement s w)).setSi si).setDi di
  | .cmps => ((compared s w (sourceElement s w) (destElement s w)).setSi si).setDi di
  | .scas => (compared s w (s.acc w) (destElement s w)).setDi di
  | .lods => (s.setAcc w (sourceElement s w)).setSi si
  | .stos => (putElement s w (s.acc w)).setDi di
  | .ins => (putElement (portValue s w s.regs.dx).2 w (portValue s w s.regs.dx).1).setDi di
  | .outs => (s.logPort s.regs.dx (decide (w = .word)) ((sourceElement s w).setWidth 16)).setSi si

/-! ### DMA cycles -/

/-- A channel's cycle reaches a plain place: memory, or a port named by a pointer below 2^16 (R561, U24). -/
def dmaPlain (s : State) (mem : Bool) (w : Width) (a : Addr) : Bool :=
  if mem then plainAt s w a
  else decide (a.extractLsb' 16 4 = 0#4) && plainPort s w (a.extractLsb' 0 16)

/-- What a channel fetches at a plain place, and the state after the fetch (R561). -/
def dmaValue (s : State) (mem : Bool) (w : Width) (a : Addr) : BitVec w.bits × State :=
  if mem then (valueAt s w a, s) else portValue s w (a.extractLsb' 0 16)

/-- The state after a channel stores at a plain place (R561). -/
def dmaStored (s : State) (mem : Bool) (w : Width) (a : Addr) (v : BitVec w.bits) : State :=
  if mem then storeAt s w a v
  else s.logPort (a.extractLsb' 0 16) (decide (w = .word)) (v.setWidth 16)

/-! ### The control block -/

/-- The offset map of the control block, written out: what is in both modes, and the interrupt controller's registers in
master mode or, with relocation bit 14 set, in iRMX 86 mode (R64, R75, R88, R100, R116). -/
def offsetMap (slaveMode : Bool) : List (Byte × BlockReg) :=
  let common : List (Byte × BlockReg) :=
    [(0xFE, .reloc), (0xA0, .umcs), (0xA2, .lmcs), (0xA4, .pacs), (0xA6, .mmcs), (0xA8, .mpcs),
      (0xC0, .dmaSrcLow .c0), (0xC2, .dmaSrcHigh .c0), (0xC4, .dmaDstLow .c0), (0xC6, .dmaDstHigh .c0),
      (0xC8, .dmaCount .c0), (0xCA, .dmaCtrl .c0), (0xD0, .dmaSrcLow .c1), (0xD2, .dmaSrcHigh .c1),
      (0xD4, .dmaDstLow .c1), (0xD6, .dmaDstHigh .c1), (0xD8, .dmaCount .c1), (0xDA, .dmaCtrl .c1),
      (0x50, .tmrCount .t0), (0x52, .tmrMaxA .t0), (0x54, .tmrMaxB .t0), (0x56, .tmrMode .t0),
      (0x58, .tmrCount .t1), (0x5A, .tmrMaxA .t1), (0x5C, .tmrMaxB .t1), (0x5E, .tmrMode .t1),
      (0x60, .tmrCount .t2), (0x62, .tmrMaxA .t2), (0x66, .tmrMode .t2), (0x30, .intStatus)]
  let slave : List (Byte × BlockReg) :=
    [(0x20, .rmxVector), (0x22, .rmxEoi), (0x28, .rmxMask), (0x2A, .rmxLevelMask), (0x2C, .rmxService),
      (0x2E, .rmxRequest), (0x32, .rmxCtrl .t0), (0x34, .rmxCtrl .d0), (0x36, .rmxCtrl .d1),
      (0x38, .rmxCtrl .t1), (0x3A, .rmxCtrl .t2)]
  let master : List (Byte × BlockReg) :=
    [(0x22, .eoi), (0x24, .poll), (0x26, .pollStatus), (0x28, .mask), (0x2A, .prioMask), (0x2C, .inService),
      (0x2E, .intRequest), (0x32, .srcCtrl .tmr), (0x34, .srcCtrl .d0), (0x36, .srcCtrl .d1),
      (0x38, .srcCtrl .i0), (0x3A, .srcCtrl .i1), (0x3C, .srcCtrl .i2), (0x3E, .srcCtrl .i3)]
  common ++ if slaveMode then slave else master

/-- The bits of the interrupt controller's registers that a change of its mode leaves open (R520, U20): level, mask and
in-service of each source, the other bits of the control words, the requests, the two priority masks, and the upper five
bits of the vector register. -/
def openBits (c : Intc) : List Bool :=
  ((IntSource.inOrder.map c.source ++ RmxSource.inOrder.map c.rmxSource).flatMap fun x =>
    [x.pr.getLsbD 0, x.pr.getLsbD 1, x.pr.getLsbD 2, x.msk, x.isv]) ++
  [c.ltm0, c.ltm1, c.ltm2, c.ltm3, c.cas0, c.cas1, c.sfnm0, c.sfnm1, c.irD0, c.irD1, c.irt0, c.irt1, c.irt2] ++
  [0, 1, 2].map c.prm.getLsbD ++ [0, 1, 2].map c.rMask.getLsbD ++ [3, 4, 5, 6, 7].map c.ivr.getLsbD

/-! ### What an instruction may change -/

/-- The width, the r/m or memory operand and the destination of an instruction that computes one value from
its operands; no destination for CMP and TEST. -/
def destination (s : State) : Instr → Option (Width × Loc × Option Loc)
  | .movRmReg w rm _ => some (w, s.locate rm, some (s.locate rm))
  | .movRegRm w reg rm => some (w, s.locate rm, some (.reg reg))
  | .movRmImm rm imm => some (imm.width, s.locate rm, some (s.locate rm))
  | .movReg8Imm reg _ => some (.byte, .reg reg, some (.reg reg))
  | .movReg16Imm reg _ => some (.word, .reg reg, some (.reg reg))
  | .movAccMem w addr => some (w, .mem (s.segment .ds) addr, some (.reg .ax_al))
  | .movMemAcc w addr => some (w, .mem (s.segment .ds) addr, some (.mem (s.segment .ds) addr))
  | .movRmSreg rm _ => some (.word, s.locate rm, some (s.locate rm))
  | .lea reg _ => some (.word, .reg reg, some (.reg reg))
  | .addRmReg d w rm reg => some (w, s.locate rm, some (dstOf s d rm reg))
  | .addRmImm rm imm => some (imm.width, s.locate rm, some (s.locate rm))
  | .addRm8Imm8 rm _ => some (.byte, s.locate rm, some (s.locate rm))
  | .addRm16Imm8 rm _ => some (.word, s.locate rm, some (s.locate rm))
  | .addAccImm imm => some (imm.width, .reg .ax_al, some (.reg .ax_al))
  | .adcRmReg d w rm reg => some (w, s.locate rm, some (dstOf s d rm reg))
  | .adcRmImm rm imm => some (imm.width, s.locate rm, some (s.locate rm))
  | .adcRm8Imm8 rm _ => some (.byte, s.locate rm, some (s.locate rm))
  | .adcRm16Imm8 rm _ => some (.word, s.locate rm, some (s.locate rm))
  | .adcAccImm imm => some (imm.width, .reg .ax_al, some (.reg .ax_al))
  | .subRmReg d w rm reg => some (w, s.locate rm, some (dstOf s d rm reg))
  | .subRmImm rm imm => some (imm.width, s.locate rm, some (s.locate rm))
  | .subRm8Imm8 rm _ => some (.byte, s.locate rm, some (s.locate rm))
  | .subRm16Imm8 rm _ => some (.word, s.locate rm, some (s.locate rm))
  | .subAccImm imm => some (imm.width, .reg .ax_al, some (.reg .ax_al))
  | .sbbRmReg d w rm reg => some (w, s.locate rm, some (dstOf s d rm reg))
  | .sbbRmImm rm imm => some (imm.width, s.locate rm, some (s.locate rm))
  | .sbbRm8Imm8 rm _ => some (.byte, s.locate rm, some (s.locate rm))
  | .sbbRm16Imm8 rm _ => some (.word, s.locate rm, some (s.locate rm))
  | .sbbAccImm imm => some (imm.width, .reg .ax_al, some (.reg .ax_al))
  | .cmpRmReg _ w rm _ => some (w, s.locate rm, none)
  | .cmpRmImm rm imm => some (imm.width, s.locate rm, none)
  | .cmpRm8Imm8 rm _ => some (.byte, s.locate rm, none)
  | .cmpRm16Imm8 rm _ => some (.word, s.locate rm, none)
  | .cmpAccImm imm => some (imm.width, .reg .ax_al, none)
  | .andRmReg d w rm reg => some (w, s.locate rm, some (dstOf s d rm reg))
  | .andRmImm rm imm => some (imm.width, s.locate rm, some (s.locate rm))
  | .andAccImm imm => some (imm.width, .reg .ax_al, some (.reg .ax_al))
  | .orRmReg d w rm reg => some (w, s.locate rm, some (dstOf s d rm reg))
  | .orRmImm rm imm => some (imm.width, s.locate rm, some (s.locate rm))
  | .orAccImm imm => some (imm.width, .reg .ax_al, some (.reg .ax_al))
  | .xorRmReg d w rm reg => some (w, s.locate rm, some (dstOf s d rm reg))
  | .xorRmImm rm imm => some (imm.width, s.locate rm, some (s.locate rm))
  | .xorAccImm imm => some (imm.width, .reg .ax_al, some (.reg .ax_al))
  | .testRmReg w rm _ => some (w, s.locate rm, none)
  | .testRmImm rm imm => some (imm.width, s.locate rm, none)
  | .testAccImm imm => some (imm.width, .reg .ax_al, none)
  | .incRm w rm => some (w, s.locate rm, some (s.locate rm))
  | .incReg reg => some (.word, .reg reg, some (.reg reg))
  | .decRm w rm => some (w, s.locate rm, some (s.locate rm))
  | .decReg reg => some (.word, .reg reg, some (.reg reg))
  | .notRm w rm => some (w, s.locate rm, some (s.locate rm))
  | .negRm w rm => some (w, s.locate rm, some (s.locate rm))
  | .imulRegRmImm16 reg rm _ => some (.word, s.locate rm, some (.reg reg))
  | .imulRegRmImm8 reg rm _ => some (.word, s.locate rm, some (.reg reg))
  | .rolRm1 w rm => some (w, s.locate rm, some (s.locate rm))
  | .rolRmCl w rm => some (w, s.locate rm, some (s.locate rm))
  | .rolRmImm w rm _ => some (w, s.locate rm, some (s.locate rm))
  | .rorRm1 w rm => some (w, s.locate rm, some (s.locate rm))
  | .rorRmCl w rm => some (w, s.locate rm, some (s.locate rm))
  | .rorRmImm w rm _ => some (w, s.locate rm, some (s.locate rm))
  | .rclRm1 w rm => some (w, s.locate rm, some (s.locate rm))
  | .rclRmCl w rm => some (w, s.locate rm, some (s.locate rm))
  | .rclRmImm w rm _ => some (w, s.locate rm, some (s.locate rm))
  | .rcrRm1 w rm => some (w, s.locate rm, some (s.locate rm))
  | .rcrRmCl w rm => some (w, s.locate rm, some (s.locate rm))
  | .rcrRmImm w rm _ => some (w, s.locate rm, some (s.locate rm))
  | .shlRm1 w rm => some (w, s.locate rm, some (s.locate rm))
  | .shlRmCl w rm => some (w, s.locate rm, some (s.locate rm))
  | .shlRmImm w rm _ => some (w, s.locate rm, some (s.locate rm))
  | .shrRm1 w rm => some (w, s.locate rm, some (s.locate rm))
  | .shrRmCl w rm => some (w, s.locate rm, some (s.locate rm))
  | .shrRmImm w rm _ => some (w, s.locate rm, some (s.locate rm))
  | .sarRm1 w rm => some (w, s.locate rm, some (s.locate rm))
  | .sarRmCl w rm => some (w, s.locate rm, some (s.locate rm))
  | .sarRmImm w rm _ => some (w, s.locate rm, some (s.locate rm))
  | _ => none

/-- How the flags of an instruction may differ: not at all for MOV, LEA and NOT; CF stays for INC and DEC
(R276, R285); SF, ZF, AF and PF stay for the rotates (R335 to R338); TF, IF and DF always stay (R37). -/
def flagsKept (i : Instr) (f g : Flags) : Prop :=
  let control := g.tf = f.tf ∧ g.ifl = f.ifl ∧ g.df = f.df
  let rotated := control ∧ g.sf = f.sf ∧ g.zf = f.zf ∧ g.af = f.af ∧ g.pf = f.pf
  match i with
  | .movRmReg _ _ _ => g = f
  | .movRegRm _ _ _ => g = f
  | .movRmImm _ _ => g = f
  | .movReg8Imm _ _ => g = f
  | .movReg16Imm _ _ => g = f
  | .movAccMem _ _ => g = f
  | .movMemAcc _ _ => g = f
  | .movRmSreg _ _ => g = f
  | .lea _ _ => g = f
  | .notRm _ _ => g = f
  | .incRm _ _ => control ∧ g.cf = f.cf
  | .incReg _ => control ∧ g.cf = f.cf
  | .decRm _ _ => control ∧ g.cf = f.cf
  | .decReg _ => control ∧ g.cf = f.cf
  | .rolRm1 _ _ => rotated
  | .rolRmCl _ _ => rotated
  | .rolRmImm _ _ _ => rotated
  | .rorRm1 _ _ => rotated
  | .rorRmCl _ _ => rotated
  | .rorRmImm _ _ _ => rotated
  | .rclRm1 _ _ => rotated
  | .rclRmCl _ _ => rotated
  | .rclRmImm _ _ _ => rotated
  | .rcrRm1 _ _ => rotated
  | .rcrRmCl _ _ => rotated
  | .rcrRmImm _ _ _ => rotated
  | _ => control

/-- The one place in memory an instruction stores to, by the expression its meaning uses; `some none` for one
that stores nothing, `none` for those that store several words or may take an exception. -/
def storedBy (s : State) : Instr → Option (Option (Width × Loc))
  | .pushRm _ => some (some (.word, .mem s.segs.ss (s.regs.sp - 2)))
  | .pushReg _ => some (some (.word, .mem s.segs.ss (s.regs.sp - 2)))
  | .pushEs => some (some (.word, .mem s.segs.ss (s.regs.sp - 2)))
  | .pushCs => some (some (.word, .mem s.segs.ss (s.regs.sp - 2)))
  | .pushSs => some (some (.word, .mem s.segs.ss (s.regs.sp - 2)))
  | .pushDs => some (some (.word, .mem s.segs.ss (s.regs.sp - 2)))
  | .pushImm16 _ => some (some (.word, .mem s.segs.ss (s.regs.sp - 2)))
  | .pushImm8 _ => some (some (.word, .mem s.segs.ss (s.regs.sp - 2)))
  | .pushf => some (some (.word, .mem s.segs.ss (s.regs.sp - 2)))
  | .callNear _ => some (some (.word, .mem s.segs.ss (s.regs.sp - 2)))
  | .callNearRm _ => some (some (.word, .mem s.segs.ss (s.regs.sp - 2)))
  | .popRm rm => some (some (.word, s.locate rm))
  | .xchgRmReg w rm _ => some (some (w, s.locate rm))
  | .movs w => some (some (w, .mem s.segs.es s.regs.di))
  | .stos w => some (some (w, .mem s.segs.es s.regs.di))
  | .ins w => some (some (w, .mem s.segs.es s.regs.di))
  | .pusha => none
  | .callFar _ _ => none
  | .callFarMem _ => none
  | .enter _ _ => none
  | .divRm _ _ => none
  | .idivRm _ _ => none
  | .bound _ _ => none
  | .intType _ => none
  | .int3 => none
  | .into => none
  | .esc _ _ _ => none
  | i =>
    match destination s i with
    | some (w, _, some l) => some (some (w, l))
    | _ => some none

/-- The instructions that may write CS: far transfers, interrupt instructions and those that may take an
exception (R26). -/
def writesCs : Instr → Bool
  | .callFar _ _ => true
  | .callFarMem _ => true
  | .jmpFar _ _ => true
  | .jmpFarMem _ => true
  | .retFar => true
  | .retFarImm _ => true
  | .intType _ => true
  | .int3 => true
  | .into => true
  | .iret => true
  | .bound _ _ => true
  | .divRm _ _ => true
  | .idivRm _ _ => true
  | .esc _ _ _ => true
  | _ => false

/-- The data segment register an instruction may write (R26, R226, R236, R247, R248). -/
def writesSegment (i : Instr) (q : SegReg) : Bool :=
  match i with
  | .movSregRm r _ => decide (r = q)
  | .popEs => decide (q = .es)
  | .popSs => decide (q = .ss)
  | .popDs => decide (q = .ds)
  | .lds _ _ => decide (q = .ds)
  | .les _ _ => decide (q = .es)
  | _ => false

/-- The instructions that may change TF (R37). -/
def writesTf : Instr → Bool
  | .popf => true
  | .iret => true
  | .intType _ => true
  | .int3 => true
  | .into => true
  | .bound _ _ => true
  | .divRm _ _ => true
  | .idivRm _ _ => true
  | .esc _ _ _ => true
  | _ => false

/-- The instructions that may change IF (R37). -/
def writesIf : Instr → Bool
  | .sti => true
  | .cli => true
  | i => writesTf i

/-- The instructions that may change DF (R37). -/
def writesDf : Instr → Bool
  | .std => true
  | .cld => true
  | .popf => true
  | .iret => true
  | _ => false

/-! ### The invariant -/

/-- Every DMA control word has its unstored bits 3 and 2 clear (R78). -/
def ctrlWf (d : DmaChannel) : Bool := !d.ctrl.getLsbD 2 && !d.ctrl.getLsbD 3

/-- Timer 2's hardwired mode bits are 0 (R91, R589). -/
def timer2Wf (t : Timer) : Bool := !t.alt && !t.ext && !t.p && !t.rtg && !t.riu

/-- RIU is clear when ALT is (R91). -/
def riuWf (t : Timer) : Bool := !t.riu || t.alt

/-- The control block is not in I/O space with base bits above bit 15 (R62). -/
def relocWf (v : Word) : Bool := v.getLsbD 12 || decide (v.extractLsb' 8 4 = 0)

/-- An INT pin that is LOW is armed (R492). -/
def armedWf (s : State) : Bool :=
  (s.pins.int0 || s.intc.armed0) && (s.pins.int1 || s.intc.armed1) && (s.pins.int2 || s.intc.armed2) &&
    (s.pins.int3 || s.intc.armed3)

/-- The undescribed bits of PACS, MMCS and MPCS read 1 (R68, R69, R70). -/
def chipWf (c : ChipSel) : Bool :=
  decide (c.pacs ||| 0x0038#16 = c.pacs) && decide (c.mmcs ||| 0x01F8#16 = c.mmcs) &&
    decide (c.mpcs ||| 0x8038#16 = c.mpcs)

/-- What every step keeps: memory in canonical form, and every register's hardwired bits as the spec says
they read. -/
structure Inv (s : State) : Prop where
  mem : s.mem.wf = true
  ch0 : ctrlWf s.dma.ch0 = true
  ch1 : ctrlWf s.dma.ch1 = true
  timer0 : riuWf s.timers.t0 = true
  timer1 : riuWf s.timers.t1 = true
  timer2 : timer2Wf s.timers.t2 = true
  reloc : relocWf s.reloc = true
  armed : armedWf s = true
  chip : chipWf s.chip = true
  ivr : s.intc.ivr &&& 0x07#8 = 0#8

/-! ### Runs -/

/-- A run of `k` steps that stops nowhere. -/
def runsTo (s : State) (k : Nat) (t : State) : Prop :=
  match k with
  | 0 => s = t
  | k + 1 => ∃ u, step s = .next u ∧ runsTo u k t

end Sys2Proof.Safety
end

