-- ==== Sys2Proof/Certificates/Slice0/Obligations.lean ====
section
/-! DEFINITION. The statements for the provers. A statement of an instruction's result says which next state
`exec` answers, under hypotheses on the state and the operands alone: nobody comes between its bus cycles
(`undisturbed`), and the places it touches are plain memory or plain ports (`Safety.lean`). -/

section

open Sys2Proof Sys2Proof.Machine Sys2Proof.Safety

/-! ### Encoding -/

/-- Words written out from the encodings of the spec decode to their instructions (R182), and one of each unlisted class
U-a to U-o to its class, with the number of bytes that decide it (R190). -/
def Obligations.WrittenWordsDecode : Prop :=
  decode [0x89, 0xD8] = .instr (.movRmReg .word (.reg .ax_al) .bx_bl) 2 ∧
  decode [0xC7, 0x06, 0x00, 0x10, 0x34, 0x12] =
    .instr (.movRmImm (.mem (.direct 0x1000)) (.word 0x1234)) 6 ∧
  decode [0xC1, 0xE0, 0x04] = .instr (.shlRmImm .word (.reg .ax_al) 4) 3 ∧
  decode [0xF3] = .instr (.rep true) 1 ∧
  decode [0xFF, 0x1E, 0x00, 0x10] = .instr (.callFarMem (.direct 0x1000)) 4 ∧
  decode [0xC8, 0x08, 0x00, 0x00] = .instr (.enter 8 0) 4 ∧
  decode [0x0F] = .unlisted .ua 1 ∧ decode [0x63] = .unlisted .ub 1 ∧ decode [0x67] = .unlisted .ub 1 ∧
  decode [0xD6] = .unlisted .uc 1 ∧ decode [0xF1] = .unlisted .ud 1 ∧
  decode [0x82, 0xC8] = .unlisted .ue 2 ∧ decode [0x83, 0x30] = .unlisted .ue 2 ∧
  decode [0x8F, 0xC8] = .unlisted .uf 2 ∧ decode [0xC7, 0xF8] = .unlisted .ug 2 ∧
  decode [0xD0, 0xF0] = .unlisted .uh 2 ∧ decode [0xC1, 0x30] = .unlisted .uh 2 ∧
  decode [0xF6, 0xC8] = .unlisted .ui 2 ∧ decode [0xFE, 0xD0] = .unlisted .uj 2 ∧
  decode [0xFF, 0x38] = .unlisted .uk 2 ∧ decode [0xFF, 0xD8] = .unlisted .ul 2 ∧
  decode [0xFF, 0xE8] = .unlisted .ul 2 ∧ decode [0xC4, 0xC0] = .unlisted .ul 2 ∧
  decode [0x8D, 0xC0] = .unlisted .um 2 ∧ decode [0x62, 0xC0] = .unlisted .um 2 ∧
  decode [0x8C, 0x20] = .unlisted .un 2 ∧ decode [0xD4, 0x0B] = .unlisted .uo 2 ∧
  decode [0xD5, 0x00] = .unlisted .uo 2

/-- Decoding the bytes of a well-formed instruction, whatever follows them, gives it back with its length
(R175, R176, R182, R183). -/
def Obligations.DecodeEncode : Prop :=
  ∀ (i : Instr) (rest : List Byte), i.wf = true →
    decode (encode i ++ rest) = .instr i (encode i).length

/-! ### The step -/

/-- Where the bytes at CS:IP decode to an instruction and the CPU moves next, a step is that instruction's
meaning with IP moved past it and IP_start marked (R31); but for a prefix its boundary follows. The schedule is the
model's (logs 7, 22), and so are the cuts: that a prefix byte is a step of its own (log 9), that the boundary is part of
the step of its instruction (log 11), that one put off until the CPU has the bus again comes first, in a step of its own
(log 32), and that RES inside the step makes it the reset of what is done (log 40). -/
def Obligations.StepRunsDecoded : Prop :=
  ∀ (s : State) (rest : List Turn) (i : Instr) (n : Nat),
    (s.agenda = .cpu :: rest ∨
      (s.agenda = [] ∧ rest = [] ∧ (s.dma.yielded = true ∨ s.dmaNext = none))) →
    s.granted = false → s.due = none → s.activity = .running → decode s.fetchBytes = .instr i n →
    s.fetchesRefused (s.fetchLength i n) = none →
    (s.pfx.rep.isSome = true → isPrefix i = true ∨ isString i = true) →
    let u := ((s.setAgenda rest).takeBus.markStart.fetched).advance n
    step s =
      endedByRes
        (if isPrefix i then exec i u
        else andThen (exec i u) fun t => boundary u.flags.tf (decide (i = .wait)) t.endInstruction)

/-- While the bus is granted the CPU waits, and HOLD is granted but inside a locked repetition (R600, R363). While
repeating, waiting or halted a step fetches nothing: it runs one element, looks at TEST again, or only looks for an
interrupt (R48, R360, R440, R441). An unlisted encoding takes type 6 with the offset after its bytes as return address.
The model's choices here: which encodings those are, and that offset (the spec's decision D9, R190, R466; log 14); that
a repeat prefix before one takes type 6 too (log 31); that a repetition is not fetched again (log 10); that no single
step follows a look while halted (log 27); that the boundary is in the same step (log 11), and RES too (log 40); that
the CPU makes no step while HOLD is granted, and that a boundary which found it granted is passed in a step of its own
after it (log 32). -/
def Obligations.StepWithoutInstruction : Prop :=
  ∀ (s : State) (rest : List Turn), s.agenda = .cpu :: rest →
    let u := (s.setAgenda rest).takeBus
    (s.granted = true ↔
      s.pins.hold = true ∧ ¬ (s.pfx.lock = true ∧ ∃ op w, s.activity = .repeating op w)) ∧
    (s.granted = true → step s = .next (s.setAgenda rest)) ∧
    (∀ d, s.granted = false → s.due = some d →
      step s = endedByRes (boundary d.traced d.wait { u with due := none })) ∧
    (s.granted = false → s.due = none →
      (s.activity = .halted → step s = endedByRes (boundary false false u)) ∧
      (s.activity = .waiting →
        step s = endedByRes (andThen (exec .wait u) fun t => boundary u.flags.tf true t.endInstruction)) ∧
      (∀ op w, s.activity = .repeating op w →
        step s =
          endedByRes (andThen (exec (stringInstr op w) u) fun t => boundary u.flags.tf false t.endInstruction)) ∧
      (∀ c n, s.activity = .running → s.flags.tf = false → s.inhibit = false → s.inhibitInt = false →
        s.nmiLatch = false → decode s.fetchBytes = .unlisted c n → s.fetchesRefused n = none →
        u.undisturbed = true → plainVector s 6 = true → roomFor s 3 = true →
        step s =
          .next (interrupted (u.markStart.fetched.advance n) 6 (s.ip + BitVec.ofNat 16 n))))

/-- The prefetch queue as a program sees it (R45, R161, R162). A byte of memory that is fetched is what memory holds,
or a value it held before a store that came while the byte was within QUEUE_DEPTH bytes past IP; after a control
transfer it is what memory holds. Both are admitted where the queue may still hold the old byte, and how the model
keeps these bytes is its choice (log 12). -/
def Obligations.FetchedByteIsNewOrQueued : Prop :=
  ∀ (s : State) (k : Nat), s.place (s.codeAddr k) = .ram ∨ s.place (s.codeAddr k) = .rom →
    (s.fetchByte k = s.loadByte (s.codeAddr k) ∨
      ∃ e ∈ s.stale, e.addr = s.codeAddr k ∧ e.ahead < Config.queueDepth ∧ s.fetchByte k = e.old) ∧
    (s.stale = [] → s.fetchByte k = s.loadByte (s.codeAddr k)) ∧
    (∀ seg off, (s.farJump seg off).stale = [] ∧ (s.jump off).stale = []) ∧
    (∀ (a : Addr) (v : Byte), s.stale = [] → s.mem.wf = true → k < 65536 →
      let t := s.storeByte a v
      (a ≠ s.codeAddr k → t.fetchByte k = s.fetchByte k) ∧
      (a = s.codeAddr k → t.fetchByte k = v ∨ (k < Config.queueDepth ∧ t.fetchByte k = s.loadByte a)))

/-- Each prefix byte adds itself to the prefixes of the instruction being fetched, and a second one of its kind
is refused (R172, R173, D17). An instruction that is no string instruction is refused after a repeat prefix (R192, D21).
That a prefix byte is an instruction of its own is log 9. -/
def Obligations.PrefixBytes : Prop :=
  ∀ s : State,
    (∀ i r, (i, r) ∈ [(Instr.segEs, SegReg.es), (.segCs, .cs), (.segSs, .ss), (.segDs, .ds)] →
      (s.pfx.seg = none → exec i s = .next { s with pfx := { s.pfx with seg := some r } }) ∧
      (s.pfx.seg ≠ none → exec i s = .refused .repeatedPrefix)) ∧
    (s.pfx.lock = false → exec .lock s = .next { s with pfx := { s.pfx with lock := true } }) ∧
    (s.pfx.lock = true → exec .lock s = .refused .repeatedPrefix) ∧
    (∀ z, s.pfx.rep = none → exec (.rep z) s = .next { s with pfx := { s.pfx with rep := some z } }) ∧
    (∀ z, s.pfx.rep ≠ none → exec (.rep z) s = .refused .repeatedPrefix) ∧
    (∀ rest i n, s.agenda = .cpu :: rest → s.granted = false → s.due = none → s.activity = .running →
      decode s.fetchBytes = .instr i n → s.fetchesRefused (s.fetchLength i n) = none → s.pfx.rep ≠ none →
      isPrefix i = false → isString i = false → step s = .refused .repeatNonString)

/-! ### Reset -/

/-- Table 5: what RES leaves in the registers it sets, after power-up and after a pulse at any time, and where
the first fetch is. -/
def Obligations.ResetValues : Prop :=
  ∀ t : State, (t = State.reset ∨ ∃ s rest, s.agenda = .reset :: rest ∧ step s = .next t) →
    t.flags.image = 0xF002#16 ∧ t.ip = 0 ∧ t.segs.cs = 0xFFFF#16 ∧ t.segs.ds = 0 ∧ t.segs.es = 0 ∧
    t.segs.ss = 0 ∧ t.reloc = 0x20FF#16 ∧ t.chip.umcs = 0xFFFB#16 ∧ t.codeAddr 0 = 0xFFFF0#20 ∧
    t.flags.cf = false ∧ t.flags.pf = false ∧ t.flags.af = false ∧ t.flags.zf = false ∧
    t.flags.sf = false ∧ t.flags.tf = false ∧ t.flags.ifl = false ∧ t.flags.df = false ∧ t.flags.ofl = false

/-- The reset state meets the invariant. -/
def Obligations.ResetInvariant : Prop := Inv State.reset

/-- Every step keeps the invariant: memory stays in canonical form, and every register's hardwired or unstored bits
stay as they read (R62, R68, R69, R70, R78, R91, R119, R492, R589). That DMA control bit 3 and IVR bits 2 to 0 read 0
is the model's choice (log 37; U8 lets them read anything), and that the base of an I/O block has no bit above 15
rests on the refusal of such a write (log 34; U10). -/
def Obligations.StepKeepsInvariant : Prop :=
  ∀ s t : State, Inv s → step s = .next t → Inv t

/-! ### Memory and ports -/

/-- The physical address of an offset of a segment (R131), and where a memory operand lies: its effective address is the
sum of base, index and displacement modulo 2^16, an 8-bit displacement sign-extended (R134, R176), in SS where BP is a
component, else in DS (R177), unless a segment prefix names another (R178). -/
def Obligations.OperandAddresses : Prop :=
  (∀ seg off : Word, (phys seg off).toNat = (seg.toNat * 16 + off.toNat) % 2 ^ 20) ∧
  ∀ s : State,
    let g := s.regs
    let segOf := fun (d : Word) => match s.pfx.seg with
      | none => d
      | some .es => s.segs.es
      | some .cs => s.segs.cs
      | some .ss => s.segs.ss
      | some .ds => s.segs.ds
    (∀ d : Word, s.locate (.mem (.direct d)) = .mem (segOf s.segs.ds) d) ∧
    (∀ (b : Base) (ea seg : Word),
      (b, ea, seg) ∈
        [(.bxSi, g.bx + g.si, s.segs.ds), (.bxDi, g.bx + g.di, s.segs.ds), (.bpSi, g.bp + g.si, s.segs.ss),
          (.bpDi, g.bp + g.di, s.segs.ss), (.si, g.si, s.segs.ds), (.di, g.di, s.segs.ds),
          (.bp, g.bp, s.segs.ss), (.bx, g.bx, s.segs.ds)] →
      s.locate (.mem (.plain b)) = .mem (segOf seg) ea ∧
      (∀ d : Byte, s.locate (.mem (.disp8 b d)) = .mem (segOf seg) (BitVec.ofInt 16 (ea.toInt + d.toInt))) ∧
      (∀ d : Word, s.locate (.mem (.disp16 b d)) =
        .mem (segOf seg) (BitVec.ofNat 16 (ea.toNat + d.toNat)))) ∧
    (∀ r, s.locate (.reg r) = .reg r)

/-- A word is stored low byte first at any address, odd ones too, reads back, and no other byte changes (R135,
R138, R140). -/
def Obligations.WordStoreThenReads : Prop :=
  ∀ (s : State) (a : Addr) (v : Word), s.mem.wf = true → s.undisturbed = true → plainAt s .word a = true →
    ∃ t, memWrite .word a v s = .next t ∧
      memRead .byte a t = .next (v.extractLsb' 0 8, t) ∧
      memRead .byte (a + 1) t = .next (v.extractLsb' 8 8, t) ∧
      memRead .word a t = .next (v, t) ∧
      ∀ b : Addr, b ≠ a → b ≠ a + 1 → t.loadByte b = s.loadByte b

/-- A word at offset FFFFH of a segment, a push that would write there and a pointer whose offset is FFFDH or
above are refused (R142, D5). -/
def Obligations.WordAtSegmentEndRefused : Prop :=
  ∀ (s : State) (seg v : Word),
    readSeg .word seg 0xFFFF#16 s = .refused .wordAtFFFF ∧
    writeSeg .word seg 0xFFFF#16 v s = .refused .wordAtFFFF ∧
    (∀ off : Word, 0xFFFD ≤ off.toNat → readPointer seg off s = .refused .wordAtFFFF) ∧
    (s.regs.sp = 1#16 → push v s = .refused .wordAtFFFF) ∧
    (s.regs.sp = 0xFFFF#16 → pop s = .refused .wordAtFFFF)

/-- What a cycle reaches. In the control block: its register, a write also what the platform has there; a byte access
and a word access at an odd address or port are refused (R60, R61, R65, D23). Outside it: ROM keeps what it holds, a
device presents what the host has said and takes what is written, and where the platform has nothing the cycle is
refused (R10, D3). That ROM ignores a write without a stop, and what a device answers, is the model's choice
(log 43). -/
def Obligations.CyclesReachTheirPlace : Prop :=
  ∀ s : State, s.undisturbed = true →
    (∀ a v, s.blockInMem a = true → a.getLsbD 0 = false →
      memRead .word a s = .next (s.readBlock (a.extractLsb' 0 8)) ∧
      memWrite .word a v s = (s.driveWord a v).writeBlock (a.extractLsb' 0 8) v ∧
      (s.place a = .ram → s.place (a + 1) = .ram → s.driveWord a v = s.storeWord a v)) ∧
    (∀ a v, s.blockInMem a = true →
      memRead .byte a s = .refused .blockAccess ∧ memWrite .byte a v s = .refused .blockAccess) ∧
    (∀ a v, (s.blockInMem a = true ∨ s.blockInMem (a + 1) = true) → a.getLsbD 0 = true →
      memRead .word a s = .refused .blockAccess ∧ memWrite .word a v s = .refused .blockAccess) ∧
    (∀ p v, s.blockInIO p = true → p.getLsbD 0 = false → reservedPort p = false →
      ioRead .word p s = .next (s.readBlock (p.extractLsb' 0 8)) ∧
      ioWrite .word p v s = (s.logPort p true v).writeBlock (p.extractLsb' 0 8) v) ∧
    (∀ p v, s.blockInIO p = true → reservedPort p = false →
      ioRead .byte p s = .refused .blockAccess ∧ ioWrite .byte p v s = .refused .blockAccess) ∧
    (∀ p v, (s.blockInIO p = true ∨ s.blockInIO (p + 1) = true) → p.getLsbD 0 = true → reservedPort p = false →
      reservedPort (p + 1) = false →
      ioRead .word p s = .refused .blockAccess ∧ ioWrite .word p v s = .refused .blockAccess) ∧
    (∀ a v, s.blockInMem a = false → s.place a = .rom →
      memRead .byte a s = .next (s.loadByte a, s) ∧ memWrite .byte a v s = .next s) ∧
    (∀ a v b, s.blockInMem a = false → s.place a = .device → portLookup s.memDevices a.toNat = some b →
      memRead .byte a s = .next (b, s.drawn 1) ∧
      memWrite .byte a v s = .next { s with memLog := { addr := a, value := v } :: s.memLog }) ∧
    (∀ a v, s.blockInMem a = false → s.place a = .nothing →
      memRead .byte a s = .refused .unpopulated ∧ memWrite .byte a v s = .refused .unpopulated) ∧
    (∀ a v, s.blockInMem a = false → s.blockInMem (a + 1) = false →
      (s.place a = .nothing ∨ s.place (a + 1) = .nothing) →
      memRead .word a s = .refused .unpopulated ∧ memWrite .word a v s = .refused .unpopulated) ∧
    (∀ p v, reservedPort p = false → s.blockInIO p = false → deviceIn s.ioMap p.toNat = false →
      ioRead .byte p s = .refused .unpopulated ∧ ioWrite .byte p v s = .refused .unpopulated) ∧
    (∀ p v, reservedPort p = false → reservedPort (p + 1) = false → s.blockInIO p = false →
      s.blockInIO (p + 1) = false →
      (deviceIn s.ioMap p.toNat = false ∨ deviceIn s.ioMap (p + 1).toNat = false) →
      ioRead .word p s = .refused .unpopulated ∧ ioWrite .word p v s = .refused .unpopulated)

/-- A write to the relocation register moves the block at once: the register is found again, holding the value
written, at offset FEH of the new base, in memory or in I/O space (R62, R63). One that changes bit 14 changes the mode
of the interrupt controller (R520): DHLT stays, the INT pins stay armed as they were, and every other bit of its
registers takes a free value of its own, but for bits 2 to 0 of the vector register, which read 0 (log 37); that these
bits are free until software writes them, where U20 would stop at a read, is log 19. A base in I/O space above bit 15
is refused (U10, log 34). -/
def Obligations.RelocationMovesBlock : Prop :=
  ∀ (s : State) (v : Word),
    let fits := v.getLsbD 12 = true ∨ v.extractLsb' 8 4 = 0#4
    (¬ fits → s.writeBlock 0xFE#8 v = .refused .relocationIOHigh) ∧
    (fits →
      ∃ t, s.writeBlock 0xFE#8 v = .next t ∧ t = { s with reloc := v, intc := t.intc, free := t.free } ∧
        t.readBlock 0xFE#8 = (v, t) ∧ t.rmx = v.getLsbD 14 ∧
        (v.getLsbD 12 = true → t.blockInMem (v.extractLsb' 0 12 ++ 0xFE#8) = true ∧ ∀ p, t.blockInIO p = false) ∧
        (v.getLsbD 12 = false → t.blockInIO (v.extractLsb' 0 8 ++ 0xFE#8) = true ∧ ∀ a, t.blockInMem a = false) ∧
        (v.getLsbD 14 = s.rmx → t = { s with reloc := v }) ∧
        (v.getLsbD 14 ≠ s.rmx →
          t.intc.dhlt = s.intc.dhlt ∧ t.intc.armed0 = s.intc.armed0 ∧ t.intc.armed1 = s.intc.armed1 ∧
          t.intc.armed2 = s.intc.armed2 ∧ t.intc.armed3 = s.intc.armed3 ∧ t.intc.ivr.extractLsb' 0 3 = 0#3 ∧
          ∃ draws : List Nat, draws.Nodup ∧ (∀ d ∈ draws, s.free ≤ d ∧ d < t.free) ∧
            openBits t.intc = draws.map Config.freeBit))

/-- What comes between the data cycles of one step (R146, R152, R567, R600, R620). A DMA transfer or an external
master's cycle comes before a data cycle, or between two, unless the instruction is locked, and no DMA transfer while
HOLD is HIGH; an external master also between the byte cycles of a word at an odd address, in either order of the two,
and never inside a word at an even one (R140, D10, D11). HOLD rises before a cycle of an unlocked instruction only
where it falls again before it, the bus being granted in between, and else after the cycle; of a locked one before any
cycle. The two byte cycles of a word with nothing between them come in either order too, locked or not and in each DMA
transfer, several before one cycle among them, as a device is shown them (R141, R150, D10). RES ends the step at any
of these places, locked or not, and memory keeps what is written by then. The interrupt sequence pushes first where
the agenda says that the bus is seen so (R470, D30). Outside a step RES and the outside world act all the same, and
the other entries do nothing. That agenda entries say all this is the model's choice (logs 6, 8, 40, 42, 43). -/
def Obligations.BetweenTheCycles : Prop :=
  ∀ (s : State) (rest : List Turn),
    (∀ b, s.agenda = .between b :: rest →
      (b = .pass → interpose s = .next (s.setAgenda rest)) ∧
      (b = .reset → interpose s = .fault (.res (s.setAgenda rest))) ∧
      (s.pfx.lock = true → (∀ c, b = .dma c → interpose s = .next s) ∧
        ∀ m, b = .master m → interpose s = .next s) ∧
      (∀ c later t, s.pfx.lock = false → b = .dma c → rest = .between .pass :: later → s.pins.hold = false →
        s.dmaMayGo c = true → dmaTransfer c (s.setAgenda rest) = .next t → interpose s = .next (t.setAgenda later)) ∧
      (∀ c d (used : List Bool) later t u, s.pfx.lock = false → b = .dma c →
        rest = used.map (fun high => .between (.byteOrder high)) ++ .between (.dma d) :: .between .pass :: later →
        s.pins.hold = false → s.dmaMayGo c = true → dmaTransfer c (s.setAgenda rest) = .next t →
        t.agenda = .between (.dma d) :: .between .pass :: later → t.pins.hold = false → t.dmaMayGo d = true →
        dmaTransfer d (t.setAgenda (.between .pass :: later)) = .next u → interpose s = .next (u.setAgenda later)) ∧
      (∀ c later, s.pfx.lock = false → b = .dma c → rest = .between .pass :: later →
        (s.pins.hold = true ∨ s.dmaMayGo c = false) → interpose s = .next (s.setAgenda later)) ∧
      (∀ later, b = .world (.pin .hold true) →
        (s.pfx.lock = false → rest = .between .pass :: later → interpose s = .next s) ∧
        (s.pfx.lock = true → rest = .between .pass :: later →
          interpose s = .next ((s.setAgenda later).setPin .hold true)) ∧
        (s.pfx.lock = false → rest = .between (.world (.pin .hold false)) :: .between .pass :: later →
          interpose s = .next ((s.setAgenda later).setPin .hold false)) ∧
        ∀ x v, s.pfx.lock = false → plainAt s .byte x = true →
          rest = .between (.master (.write x v)) :: .between (.world (.pin .hold false)) :: .between .pass :: later →
          interpose s = .next (((s.storeByte x v).setAgenda later).setPin .hold false)) ∧
      (∀ w later, b = .world w → w ≠ .pin .hold true → rest = .between .pass :: later →
        interpose s = .next ((s.world w).setAgenda later)) ∧
      (∀ w, b = .world w → step s = .next ((s.setAgenda rest).world w)) ∧
      (b = .reset → step s = .next (s.setAgenda rest).resetPulse) ∧
      ((∀ w, b ≠ .world w) → b ≠ .reset → step s = .next (s.setAgenda rest)) ∧
      (∀ x v later, s.pfx.lock = false → b = .master (.write x v) → rest = .between .pass :: later →
        plainAt s .byte x = true → interpose s = .next ((s.storeByte x v).setAgenda later)) ∧
      (∀ (a x : Addr) (v : Word) (y : Byte) (high : Bool), s.pfx.lock = false → b = .midMaster high (.write x y) →
        (∀ b' l, rest ≠ .between b' :: l) → plainAt s .word a = true → plainAt s .byte x = true →
        memWrite .word a v s =
          if a.getLsbD 0 = false then .next (s.storeWord a v)
          else if high then
            .next ((((s.storeByte (a + 1) (v.extractLsb' 8 8)).setAgenda rest).storeByte x y).storeByte a
              (v.extractLsb' 0 8))
          else
            .next ((((s.storeByte a (v.extractLsb' 0 8)).setAgenda rest).storeByte x y).storeByte (a + 1)
              (v.extractLsb' 8 8))) ∧
      (∀ (a : Addr) (v : Word) (high : Bool), b = .midReset high → a.getLsbD 0 = true → plainAt s .word a = true →
        memWrite .word a v s =
          .fault (.res ((if high then s.storeByte (a + 1) (v.extractLsb' 8 8)
            else s.storeByte a (v.extractLsb' 0 8)).setAgenda rest))) ∧
      (∀ (a : Addr) (v : Word) (high : Bool), b = .byteOrder high →
        s.blockInMem a = false → s.blockInMem (a + 1) = false → s.place a = .device → s.place (a + 1) = .device →
        let lo : MemWrite := { addr := a, value := v.extractLsb' 0 8 }
        let hi : MemWrite := { addr := a + 1, value := v.extractLsb' 8 8 }
        let t : State := if a.getLsbD 0 = false then { s with memLog := hi :: lo :: s.memLog }
          else { s with memLog := (if high then [lo, hi] else [hi, lo]) ++ s.memLog, agenda := rest }
        memWrite .word a v s = .next t ∧ dmaWriteMem .word a v s = .next t) ∧
      (∀ (p v : Word) (high : Bool), b = .byteOrder high → plainPort s .word p = true →
        let lo : PortWrite := { port := p, wide := false, value := (v.extractLsb' 0 8).setWidth 16 }
        let hi : PortWrite := { port := p + 1, wide := false, value := (v.extractLsb' 8 8).setWidth 16 }
        ioWrite .word p v s =
          .next (if p.getLsbD 0 = false then { s with portLog := { port := p, wide := true, value := v } :: s.portLog }
            else { s with portLog := (if high then [lo, hi] else [hi, lo]) ++ s.portLog, agenda := rest })) ∧
      (b = .dmaReset → resetBeforeStore s = .fault (.res (s.setAgenda rest))) ∧
      (∀ n ret, b = .pushesFirst →
        interrupt n ret s =
          andThen (saveContext ret (s.setAgenda rest)) fun s => seq (readVector n s) fun v s =>
            .next (s.farJump v.2 v.1).leaveInstruction)) ∧
    (∀ u, endedByRes (.fault (.res u)) = .next u.resetPulse ∧ u.resetPulse.mem = u.mem ∧
      u.resetPulse.portLog = u.portLog ∧ u.resetPulse.memLog = u.memLog ∧
      u.resetPulse = { State.reset with
        mem := u.mem, memMap := u.memMap, ioMap := u.ioMap, memDevices := u.memDevices, memLog := u.memLog
        ports := u.ports, portLog := u.portLog, pins := u.pins, intaByte := u.intaByte, acks := u.acks
        intc := u.resetPulse.intc, agenda := u.agenda, free := u.free })

/-! ### Data transfer -/

/-- MOV but for the forms that write a segment register, and LEA (R220 to R225, R227, R246). -/
def Obligations.MovResults : Prop :=
  ∀ s : State, s.undisturbed = true →
    (∀ w rm reg, plainLoc s w (s.locate rm) = true →
      exec (.movRmReg w rm reg) s = .next (putOf s w (s.locate rm) (s.getReg w reg))) ∧
    (∀ w reg rm, plainLoc s w (s.locate rm) = true →
      exec (.movRegRm w reg rm) s = .next (s.setReg w reg (valueOf s w (s.locate rm)))) ∧
    (∀ rm imm, plainLoc s imm.width (s.locate rm) = true →
      exec (.movRmImm rm imm) s = .next (putOf s imm.width (s.locate rm) imm.value)) ∧
    (∀ reg imm, exec (.movReg8Imm reg imm) s = .next (s.setReg .byte reg imm)) ∧
    (∀ reg imm, exec (.movReg16Imm reg imm) s = .next (s.setReg .word reg imm)) ∧
    (∀ w addr, plain s w (s.segment .ds) addr = true →
      exec (.movAccMem w addr) s = .next (s.setReg w .ax_al (valueAt s w (phys (s.segment .ds) addr)))) ∧
    (∀ w addr, plain s w (s.segment .ds) addr = true →
      exec (.movMemAcc w addr) s = .next (storeAt s w (phys (s.segment .ds) addr) (s.getReg w .ax_al))) ∧
    (∀ rm sreg, plainLoc s .word (s.locate rm) = true →
      exec (.movRmSreg rm sreg) s = .next (putOf s .word (s.locate rm) (s.getSeg sreg))) ∧
    (∀ reg mem, exec (.lea reg mem) s = .next (s.setReg .word reg (s.ea mem)))

/-- MOV and POP to a segment register, LDS and LES set the register and hold every interrupt off for one
instruction (R226, R236, R247, R248, R47, D15); MOV to CS is refused (R191, D26). -/
def Obligations.SegmentLoads : Prop :=
  ∀ s : State, s.undisturbed = true →
    (∀ sreg rm, sreg ≠ .cs → plainLoc s .word (s.locate rm) = true →
      exec (.movSregRm sreg rm) s =
        .next { s.setSeg sreg (valueOf s .word (s.locate rm)) with inhibit := true }) ∧
    (∀ rm, exec (.movSregRm .cs rm) s = .refused .movToCs) ∧
    (plain s .word s.segs.ss s.regs.sp = true →
      exec .popEs s =
        .next { (s.setSp (s.regs.sp + 2)).setSeg .es (stackWord s 0) with inhibit := true } ∧
      exec .popSs s =
        .next { (s.setSp (s.regs.sp + 2)).setSeg .ss (stackWord s 0) with inhibit := true } ∧
      exec .popDs s =
        .next { (s.setSp (s.regs.sp + 2)).setSeg .ds (stackWord s 0) with inhibit := true }) ∧
    (∀ reg mem, plainPointer s (s.memSeg mem) (s.ea mem) = true →
      let off := s.loadWord (phys (s.memSeg mem) (s.ea mem))
      let seg := s.loadWord (phys (s.memSeg mem) (s.ea mem + 2))
      exec (.lds reg mem) s = .next { (s.setReg .word reg off).setSeg .ds seg with inhibit := true } ∧
      exec (.les reg mem) s = .next { (s.setReg .word reg off).setSeg .es seg with inhibit := true })

/-- The pushes of one word: SP goes down by 2 and the word is stored there (R228 to R232, R251). PUSH SP stores
SP after the decrement, which is general knowledge of the part (U2, log 26). The pops of one word into a register, an
operand or the flags (R233, R234, R235, R252); POP SP ends with the word popped in SP. The image of the flags that PUSHF
stores has each at its bit of Table 2, 1 in bits 15 to 12 and 1, and 0 in bits 5 and 3, and POPF takes each from its bit
and nothing from the others (R35, R36, R251, R252, D8). -/
def Obligations.PushPopResults : Prop :=
  ∀ s : State, s.undisturbed = true →
    (plain s .word s.segs.ss (s.regs.sp - 2) = true →
      (∀ m, plainLoc s .word (s.locate (.mem m)) = true →
        exec (.pushRm (.mem m)) s = .next (pushed s (valueOf s .word (s.locate (.mem m))))) ∧
      (∀ r, r ≠ .sp_ah → exec (.pushRm (.reg r)) s = .next (pushed s (s.getReg .word r))) ∧
      (∀ r, r ≠ .sp_ah → exec (.pushReg r) s = .next (pushed s (s.getReg .word r))) ∧
      exec (.pushRm (.reg .sp_ah)) s = .next (pushed s (s.regs.sp - 2)) ∧
      exec (.pushReg .sp_ah) s = .next (pushed s (s.regs.sp - 2)) ∧
      exec .pushEs s = .next (pushed s s.segs.es) ∧
      exec .pushCs s = .next (pushed s s.segs.cs) ∧
      exec .pushSs s = .next (pushed s s.segs.ss) ∧
      exec .pushDs s = .next (pushed s s.segs.ds) ∧
      (∀ imm, exec (.pushImm16 imm) s = .next (pushed s imm)) ∧
      (∀ imm, exec (.pushImm8 imm) s = .next (pushed s (imm.signExtend 16))) ∧
      exec .pushf s = .next (pushed s s.flags.image)) ∧
    (plain s .word s.segs.ss s.regs.sp = true →
      let u := s.setSp (s.regs.sp + 2)
      (∀ rm, plainLoc s .word (s.locate rm) = true →
        exec (.popRm rm) s = .next (putOf u .word (s.locate rm) (stackWord s 0))) ∧
      (∀ r, exec (.popReg r) s = .next (u.setReg .word r (stackWord s 0))) ∧
      exec (.popReg .sp_ah) s = .next (s.setSp (stackWord s 0)) ∧
      exec .popf s = .next (u.setFlags (Flags.ofImage (stackWord s 0)))) ∧
    (let v := s.flags.image
     v.getLsbD 0 = s.flags.cf ∧ v.getLsbD 1 = true ∧ v.getLsbD 2 = s.flags.pf ∧ v.getLsbD 3 = false ∧
     v.getLsbD 4 = s.flags.af ∧ v.getLsbD 5 = false ∧ v.getLsbD 6 = s.flags.zf ∧ v.getLsbD 7 = s.flags.sf ∧
     v.getLsbD 8 = s.flags.tf ∧ v.getLsbD 9 = s.flags.ifl ∧ v.getLsbD 10 = s.flags.df ∧
     v.getLsbD 11 = s.flags.ofl ∧ v.getLsbD 12 = true ∧ v.getLsbD 13 = true ∧ v.getLsbD 14 = true ∧
     v.getLsbD 15 = true) ∧
    (∀ v : Word, Flags.ofImage v =
      { cf := v.getLsbD 0, pf := v.getLsbD 2, af := v.getLsbD 4, zf := v.getLsbD 6, sf := v.getLsbD 7
        tf := v.getLsbD 8, ifl := v.getLsbD 9, df := v.getLsbD 10, ofl := v.getLsbD 11 })

/-- PUSHA stores the eight registers with SP as it was before (R238); POPA loads them and drops the word in the
SP slot (R239); one after the other leaves all eight registers and the memory above SP unchanged. -/
def Obligations.PushaPopaResults : Prop :=
  ∀ s : State, s.undisturbed = true →
    (roomFor s 8 = true →
      exec .pusha s =
        .next (pushed (pushed (pushed (pushed (pushed (pushed (pushed (pushed s s.regs.ax) s.regs.cx) s.regs.dx)
          s.regs.bx) s.regs.sp) s.regs.bp) s.regs.si) s.regs.di)) ∧
    (heldOn s 8 = true →
      exec .popa s =
        .next { s with
          regs := { ax := stackWord s 7, cx := stackWord s 6, dx := stackWord s 5, bx := stackWord s 4
                    sp := s.regs.sp + 16, bp := stackWord s 2, si := stackWord s 1, di := stackWord s 0 } }) ∧
    (s.mem.wf = true → roomFor s 8 = true →
      ∃ t u, exec .pusha s = .next t ∧ exec .popa t = .next u ∧ u.regs = s.regs ∧ u.segs = s.segs ∧
        u.flags = s.flags ∧
        ∀ a : Addr, (∀ k, k < 16 → a ≠ phys s.segs.ss (s.regs.sp - 16 + BitVec.ofNat 16 k)) →
          u.loadByte a = s.loadByte a)

/-- XCHG swaps its operands (R240, R241), NOP does nothing (R443), XLAT reads the table at BX + AL (R245), LAHF and SAHF
move five flags to and from AH (R249, R250). -/
def Obligations.ExchangeTranslateFlagTransfer : Prop :=
  ∀ s : State,
    (∀ w rm reg, s.undisturbed = true → plainLoc s w (s.locate rm) = true →
      exec (.xchgRmReg w rm reg) s =
        .next ((putOf s w (s.locate rm) (s.getReg w reg)).setReg w reg (valueOf s w (s.locate rm)))) ∧
    (∀ reg, exec (.xchgAxReg reg) s =
      .next ((s.setReg .word .ax_al (s.getReg .word reg)).setReg .word reg s.regs.ax)) ∧
    exec .nop s = .next s ∧
    (s.undisturbed = true →
      plain s .byte (s.segment .ds) (s.regs.bx + (s.getReg .byte .ax_al).setWidth 16) = true →
      exec .xlat s =
        .next (s.setReg .byte .ax_al
          (s.loadByte (phys (s.segment .ds) (s.regs.bx + (s.getReg .byte .ax_al).setWidth 16))))) ∧
    (∃ v : Byte, exec .lahf s = .next (s.setReg .byte .sp_ah v) ∧
      v.getLsbD 7 = s.flags.sf ∧ v.getLsbD 6 = s.flags.zf ∧ v.getLsbD 5 = false ∧
      v.getLsbD 4 = s.flags.af ∧ v.getLsbD 3 = false ∧ v.getLsbD 2 = s.flags.pf ∧ v.getLsbD 1 = true ∧
      v.getLsbD 0 = s.flags.cf) ∧
    exec .sahf s =
      .next (s.setFlags { s.flags with
        sf := s.regs.ax.getLsbD 15, zf := s.regs.ax.getLsbD 14, af := s.regs.ax.getLsbD 12
        pf := s.regs.ax.getLsbD 10, cf := s.regs.ax.getLsbD 8 })

/-- IN reads what the platform presents at the port in the instruction or in DX, and OUT makes one entry in the record
of port writes, at plain ports (R242, R243, R150). That a port without data reads a free value, and that a word at an
odd port, which is two byte cycles, is one entry of that record, is log 6. An access to one of the ports F8H to FFH, a
word at port F7H among them, is refused in every form (R151, D13). -/
def Obligations.PortResults : Prop :=
  ∀ s : State, s.undisturbed = true →
    (∀ w port, plainPort s w (port.setWidth 16) = true →
      exec (.inAccPort w port) s =
        .next ((portValue s w (port.setWidth 16)).2.setReg w .ax_al (portValue s w (port.setWidth 16)).1) ∧
      exec (.outPortAcc w port) s =
        .next (s.logPort (port.setWidth 16) (decide (w = .word)) ((s.getReg w .ax_al).setWidth 16))) ∧
    (∀ w, plainPort s w s.regs.dx = true →
      exec (.inAccDx w) s =
        .next ((portValue s w s.regs.dx).2.setReg w .ax_al (portValue s w s.regs.dx).1) ∧
      exec (.outDxAcc w) s =
        .next (s.logPort s.regs.dx (decide (w = .word)) ((s.getReg w .ax_al).setWidth 16))) ∧
    (∀ w (port : Byte), (0xF8 ≤ port.toNat ∨ (w = .word ∧ port = 0xF7#8)) →
      exec (.inAccPort w port) s = .refused .reservedPort ∧ exec (.outPortAcc w port) s = .refused .reservedPort) ∧
    (∀ w, ((0xF8 ≤ s.regs.dx.toNat ∧ s.regs.dx.toNat ≤ 0xFF) ∨ (w = .word ∧ s.regs.dx = 0x00F7#16)) →
      exec (.inAccDx w) s = .refused .reservedPort ∧ exec (.outDxAcc w) s = .refused .reservedPort)

/-! ### Arithmetic -/

/-- ADD and ADC write the sum of destination, source and, for ADC, CF, and set the flags of that addition (R270 to
R275, R17, R179). SUB and SBB write the difference and set the flags of that subtraction; CMP sets the flags alone (R279
to R284, R295 to R297, R17, R179). -/
def Obligations.AddSubtractResults : Prop :=
  ∀ s : State, s.undisturbed = true →
    (∀ d w rm reg, plainLoc s w (s.locate rm) = true →
      exec (.addRmReg d w rm reg) s =
        .next (sumTo s w (dstOf s d rm reg) (valueOf s w (srcOf s d rm reg)) false) ∧
      exec (.adcRmReg d w rm reg) s =
        .next (sumTo s w (dstOf s d rm reg) (valueOf s w (srcOf s d rm reg)) s.flags.cf)) ∧
    (∀ rm imm, plainLoc s imm.width (s.locate rm) = true →
      exec (.addRmImm rm imm) s = .next (sumTo s imm.width (s.locate rm) imm.value false) ∧
      exec (.adcRmImm rm imm) s = .next (sumTo s imm.width (s.locate rm) imm.value s.flags.cf)) ∧
    (∀ rm (imm : Byte), plainLoc s .byte (s.locate rm) = true →
      exec (.addRm8Imm8 rm imm) s = .next (sumTo s .byte (s.locate rm) imm false) ∧
      exec (.adcRm8Imm8 rm imm) s = .next (sumTo s .byte (s.locate rm) imm s.flags.cf)) ∧
    (∀ rm (imm : Byte), plainLoc s .word (s.locate rm) = true →
      exec (.addRm16Imm8 rm imm) s = .next (sumTo s .word (s.locate rm) (imm.signExtend 16) false) ∧
      exec (.adcRm16Imm8 rm imm) s =
        .next (sumTo s .word (s.locate rm) (imm.signExtend 16) s.flags.cf)) ∧
    (∀ imm, exec (.addAccImm imm) s = .next (sumTo s imm.width (.reg .ax_al) imm.value false) ∧
      exec (.adcAccImm imm) s = .next (sumTo s imm.width (.reg .ax_al) imm.value s.flags.cf)) ∧
    (∀ d w rm reg, plainLoc s w (s.locate rm) = true →
      exec (.subRmReg d w rm reg) s =
        .next (diffTo s w (dstOf s d rm reg) (valueOf s w (srcOf s d rm reg)) false) ∧
      exec (.sbbRmReg d w rm reg) s =
        .next (diffTo s w (dstOf s d rm reg) (valueOf s w (srcOf s d rm reg)) s.flags.cf) ∧
      exec (.cmpRmReg d w rm reg) s =
        .next (compared s w (valueOf s w (dstOf s d rm reg)) (valueOf s w (srcOf s d rm reg)))) ∧
    (∀ rm imm, plainLoc s imm.width (s.locate rm) = true →
      exec (.subRmImm rm imm) s = .next (diffTo s imm.width (s.locate rm) imm.value false) ∧
      exec (.sbbRmImm rm imm) s = .next (diffTo s imm.width (s.locate rm) imm.value s.flags.cf) ∧
      exec (.cmpRmImm rm imm) s =
        .next (compared s imm.width (valueOf s imm.width (s.locate rm)) imm.value)) ∧
    (∀ rm (imm : Byte), plainLoc s .byte (s.locate rm) = true →
      exec (.subRm8Imm8 rm imm) s = .next (diffTo s .byte (s.locate rm) imm false) ∧
      exec (.sbbRm8Imm8 rm imm) s = .next (diffTo s .byte (s.locate rm) imm s.flags.cf) ∧
      exec (.cmpRm8Imm8 rm imm) s = .next (compared s .byte (valueOf s .byte (s.locate rm)) imm)) ∧
    (∀ rm (imm : Byte), plainLoc s .word (s.locate rm) = true →
      exec (.subRm16Imm8 rm imm) s = .next (diffTo s .word (s.locate rm) (imm.signExtend 16) false) ∧
      exec (.sbbRm16Imm8 rm imm) s =
        .next (diffTo s .word (s.locate rm) (imm.signExtend 16) s.flags.cf) ∧
      exec (.cmpRm16Imm8 rm imm) s =
        .next (compared s .word (valueOf s .word (s.locate rm)) (imm.signExtend 16))) ∧
    (∀ imm, exec (.subAccImm imm) s = .next (diffTo s imm.width (.reg .ax_al) imm.value false) ∧
      exec (.sbbAccImm imm) s = .next (diffTo s imm.width (.reg .ax_al) imm.value s.flags.cf) ∧
      exec (.cmpAccImm imm) s = .next (compared s imm.width (s.getReg imm.width .ax_al) imm.value))

/-- The sum and every flag of an addition, the difference and every flag of a subtraction, against exact arithmetic:
CF is the unsigned carry or borrow, OF says that the signed result does not fit, AF is the carry out of bit 3 or the
borrow into it, SF, ZF and PF describe the result, and the other flags stay (R35, R17). -/
def Obligations.ArithmeticFlagsAreExact : Prop :=
  ∀ (w : Width) (f : Flags) (a b : BitVec w.bits) (c : Bool),
    (let r := addResult a b c
     let g := f.add a b c
     r.toNat = (a.toNat + b.toNat + c.toNat) % 2 ^ w.bits ∧
     (g.cf = true ↔ 2 ^ w.bits ≤ a.toNat + b.toNat + c.toNat) ∧
     (g.ofl = true ↔ a.toInt + b.toInt + c.toNat ≠ r.toInt) ∧
     (g.af = true ↔ 16 ≤ a.toNat % 16 + b.toNat % 16 + c.toNat) ∧
     (g.zf = true ↔ r = 0) ∧ (g.sf = true ↔ r.toInt < 0) ∧
     (g.pf = true ↔ evenParity r) ∧
     g.tf = f.tf ∧ g.ifl = f.ifl ∧ g.df = f.df) ∧
    (let r := subResult a b c
     let g := f.sub a b c
     ((r.toNat : Int) = ((a.toNat : Int) - b.toNat - c.toNat) % 2 ^ w.bits) ∧
     (g.cf = true ↔ a.toNat < b.toNat + c.toNat) ∧
     (g.ofl = true ↔ a.toInt - b.toInt - c.toNat ≠ r.toInt) ∧
     (g.af = true ↔ a.toNat % 16 < b.toNat % 16 + c.toNat) ∧
     (g.zf = true ↔ r = 0) ∧ (g.sf = true ↔ r.toInt < 0) ∧
     (g.pf = true ↔ evenParity r) ∧
     g.tf = f.tf ∧ g.ifl = f.ifl ∧ g.df = f.df)

/-- INC and DEC write the operand plus or minus 1 with the flags of that addition or subtraction but for CF, which
stays (R276, R277, R285, R286); NEG writes 0 minus the operand with the flags of that subtraction (R287). -/
def Obligations.IncDecNegResults : Prop :=
  ∀ s : State, s.undisturbed = true →
    (∀ w rm, plainLoc s w (s.locate rm) = true →
      let x := valueOf s w (s.locate rm)
      exec (.incRm w rm) s =
        .next (putOf (s.setFlags { s.flags.add x 1 false with cf := s.flags.cf }) w (s.locate rm) (x + 1)) ∧
      exec (.decRm w rm) s =
        .next (putOf (s.setFlags { s.flags.sub x 1 false with cf := s.flags.cf }) w (s.locate rm) (x - 1)) ∧
      exec (.negRm w rm) s = .next (putOf (s.setFlags (s.flags.sub 0 x false)) w (s.locate rm) (-x))) ∧
    (∀ reg,
      let x := s.getReg .word reg
      exec (.incReg reg) s =
        .next ((s.setFlags { s.flags.add x 1 false with cf := s.flags.cf }).setReg .word reg (x + 1)) ∧
      exec (.decReg reg) s =
        .next ((s.setFlags { s.flags.sub x 1 false with cf := s.flags.cf }).setReg .word reg (x - 1)))

/-- MUL and IMUL write the exact product, or its low word for the immediate forms; CF and OF say whether the half
not kept, or the upper half, is significant; the other arithmetic flags are free (R288, R289, R291). -/
def Obligations.MultiplyResults : Prop :=
  ∀ s : State, s.undisturbed = true →
    (∀ rm, plainLoc s .byte (s.locate rm) = true →
      let v : Byte := valueOf s .byte (s.locate rm)
      let al : Byte := s.getReg .byte .ax_al
      (∃ t, exec (.mulRm .byte rm) s = .next t ∧ SameButRegsFlags s t ∧ SameControlFlags s t ∧
        t.regs = { s.regs with ax := t.regs.ax } ∧ t.regs.ax.toNat = al.toNat * v.toNat ∧
        (t.flags.cf = true ↔ 256 ≤ al.toNat * v.toNat) ∧ t.flags.ofl = t.flags.cf) ∧
      (∃ t, exec (.imulRm .byte rm) s = .next t ∧ SameButRegsFlags s t ∧ SameControlFlags s t ∧
        t.regs = { s.regs with ax := t.regs.ax } ∧ t.regs.ax.toInt = al.toInt * v.toInt ∧
        (t.flags.cf = true ↔ al.toInt * v.toInt < -128 ∨ 128 ≤ al.toInt * v.toInt) ∧
        t.flags.ofl = t.flags.cf)) ∧
    (∀ rm, plainLoc s .word (s.locate rm) = true →
      let v : Word := valueOf s .word (s.locate rm)
      let ax := s.regs.ax
      (∃ t, exec (.mulRm .word rm) s = .next t ∧ SameButRegsFlags s t ∧ SameControlFlags s t ∧
        t.regs = { s.regs with ax := t.regs.ax, dx := t.regs.dx } ∧
        t.regs.dx.toNat * 65536 + t.regs.ax.toNat = ax.toNat * v.toNat ∧
        (t.flags.cf = true ↔ 65536 ≤ ax.toNat * v.toNat) ∧ t.flags.ofl = t.flags.cf) ∧
      (∃ t, exec (.imulRm .word rm) s = .next t ∧ SameButRegsFlags s t ∧ SameControlFlags s t ∧
        t.regs = { s.regs with ax := t.regs.ax, dx := t.regs.dx } ∧
        (t.regs.dx ++ t.regs.ax).toInt = ax.toInt * v.toInt ∧
        (t.flags.cf = true ↔ ax.toInt * v.toInt < -32768 ∨ 32768 ≤ ax.toInt * v.toInt) ∧
        t.flags.ofl = t.flags.cf) ∧
      (∀ (reg : Reg) (imm : Word), ∃ t, exec (.imulRegRmImm16 reg rm imm) s = .next t ∧
        SameButRegsFlags s t ∧ SameControlFlags s t ∧
        t.regs = s.regs.set16 reg (BitVec.ofInt 16 (v.toInt * imm.toInt)) ∧
        (t.flags.cf = true ↔ v.toInt * imm.toInt < -32768 ∨ 32768 ≤ v.toInt * imm.toInt) ∧
        t.flags.ofl = t.flags.cf) ∧
      (∀ (reg : Reg) (imm : Byte), ∃ t, exec (.imulRegRmImm8 reg rm imm) s = .next t ∧
        SameButRegsFlags s t ∧ SameControlFlags s t ∧
        t.regs = s.regs.set16 reg (BitVec.ofInt 16 (v.toInt * imm.toInt)) ∧
        (t.flags.cf = true ↔ v.toInt * imm.toInt < -32768 ∨ 32768 ≤ v.toInt * imm.toInt) ∧
        t.flags.ofl = t.flags.cf))

/-- DIV and IDIV write quotient and remainder when the divisor is not 0 and the quotient fits: unsigned for DIV,
signed and truncated toward 0 for IDIV; the six arithmetic flags are free (R292, R293). That -2^(W-1) fits is the
spec's choice (U4, log 25). -/
def Obligations.DivideResults : Prop :=
  ∀ s : State, s.undisturbed = true →
    (∀ rm, plainLoc s .byte (s.locate rm) = true →
      let v : Byte := valueOf s .byte (s.locate rm)
      let ax := s.regs.ax
      (v.toNat ≠ 0 → ax.toNat / v.toNat < 256 →
        ∃ t, exec (.divRm .byte rm) s = .next t ∧ SameButRegsFlags s t ∧ SameControlFlags s t ∧
          t.regs = { s.regs with ax := t.regs.ax } ∧ (t.getReg .byte .ax_al).toNat = ax.toNat / v.toNat ∧
          (t.getReg .byte .sp_ah).toNat = ax.toNat % v.toNat) ∧
      (v.toInt ≠ 0 → -128 ≤ ax.toInt.tdiv v.toInt → ax.toInt.tdiv v.toInt < 128 →
        ∃ t, exec (.idivRm .byte rm) s = .next t ∧ SameButRegsFlags s t ∧ SameControlFlags s t ∧
          t.regs = { s.regs with ax := t.regs.ax } ∧ (t.getReg .byte .ax_al).toInt = ax.toInt.tdiv v.toInt ∧
          (t.getReg .byte .sp_ah).toInt = ax.toInt.tmod v.toInt)) ∧
    (∀ rm, plainLoc s .word (s.locate rm) = true →
      let v : Word := valueOf s .word (s.locate rm)
      let n := s.regs.dx ++ s.regs.ax
      (v.toNat ≠ 0 → n.toNat / v.toNat < 65536 →
        ∃ t, exec (.divRm .word rm) s = .next t ∧ SameButRegsFlags s t ∧ SameControlFlags s t ∧
          t.regs = { s.regs with ax := t.regs.ax, dx := t.regs.dx } ∧
          t.regs.ax.toNat = n.toNat / v.toNat ∧ t.regs.dx.toNat = n.toNat % v.toNat) ∧
      (v.toInt ≠ 0 → -32768 ≤ n.toInt.tdiv v.toInt → n.toInt.tdiv v.toInt < 32768 →
        ∃ t, exec (.idivRm .word rm) s = .next t ∧ SameButRegsFlags s t ∧ SameControlFlags s t ∧
          t.regs = { s.regs with ax := t.regs.ax, dx := t.regs.dx } ∧
          t.regs.ax.toInt = n.toInt.tdiv v.toInt ∧ t.regs.dx.toInt = n.toInt.tmod v.toInt))

/-- A division by 0, or one whose quotient does not fit, takes type 0 with the offset of the next instruction as
return address and writes no destination (R292, R293, R461). The return offset is the spec's choice, on which U3 says
a proof must not depend; that the arithmetic flags pushed are those before the instruction, on which R463 says
likewise, and that they are free after it, are the model's choices (log 25). -/
def Obligations.DivideErrorTraps : Prop :=
  ∀ (s : State) (w : Width) (rm : RM), s.undisturbed = true → plainLoc s w (s.locate rm) = true →
    plainVector s 0 = true → roomFor s 3 = true →
    let v := valueOf s w (s.locate rm)
    (v.toNat = 0 ∨ 2 ^ w.bits ≤ s.dividend w / v.toNat →
      exec (.divRm w rm) s = .next (interrupted s 0 s.ip).divFlags) ∧
    (v.toNat = 0 ∨ (s.dividendSigned w).tdiv v.toInt < -2 ^ (w.bits - 1) ∨
        2 ^ (w.bits - 1) ≤ (s.dividendSigned w).tdiv v.toInt →
      exec (.idivRm w rm) s = .next (interrupted s 0 s.ip).divFlags)

/-- AAA, AAS, AAM, AAD, CBW and CWD in decimal and signed arithmetic; registers other than AX, or DX for CWD,
stay (R303, R304, R307 to R310). The form of AAA and AAS, which adjust AL and AH each by itself, is log 26 (U5). -/
def Obligations.AsciiAdjustsAndExtensions : Prop :=
  ∀ s : State,
    let al := (s.regs.ax.extractLsb' 0 8).toNat
    let ah := (s.regs.ax.extractLsb' 8 8).toNat
    let adjust := decide (9 < al % 16) || s.flags.af
    (∃ t, exec .aaa s = .next t ∧ SameButRegsFlags s t ∧ SameControlFlags s t ∧
      (let ax := if adjust then (ah + 1) % 256 * 256 + (al + 6) % 16 else ah * 256 + al % 16
       t.regs = { s.regs with ax := BitVec.ofNat 16 ax }) ∧
      t.flags.cf = adjust ∧ t.flags.af = adjust) ∧
    (∃ t, exec .aas s = .next t ∧ SameButRegsFlags s t ∧ SameControlFlags s t ∧
      (let ax := if adjust then (ah + 255) % 256 * 256 + (al + 10) % 16 else ah * 256 + al % 16
       t.regs = { s.regs with ax := BitVec.ofNat 16 ax }) ∧
      t.flags.cf = adjust ∧ t.flags.af = adjust) ∧
    (∃ t, exec .aam s = .next t ∧ SameButRegsFlags s t ∧ SameControlFlags s t ∧
      t.regs = { s.regs with ax := BitVec.ofNat 16 (al / 10 * 256 + al % 10) } ∧
      (t.flags.zf = true ↔ al % 10 = 0) ∧ t.flags.sf = false ∧
      (t.flags.pf = true ↔ evenParity (BitVec.ofNat 8 (al % 10)))) ∧
    (∃ t, exec .aad s = .next t ∧ SameButRegsFlags s t ∧ SameControlFlags s t ∧
      t.regs = { s.regs with ax := BitVec.ofNat 16 ((ah * 10 + al) % 256) } ∧
      (t.flags.zf = true ↔ (ah * 10 + al) % 256 = 0) ∧
      (t.flags.sf = true ↔ 128 ≤ (ah * 10 + al) % 256) ∧
      (t.flags.pf = true ↔ evenParity (BitVec.ofNat 8 (ah * 10 + al)))) ∧
    (∃ t, exec .cbw s = .next t ∧ t = { s with regs := { s.regs with ax := t.regs.ax } } ∧
      t.regs.ax.toInt = (s.regs.ax.extractLsb' 0 8).toInt) ∧
    (∃ t, exec .cwd s = .next t ∧ t = { s with regs := { s.regs with dx := t.regs.dx } } ∧
      (t.regs.dx ++ s.regs.ax).toInt = s.regs.ax.toInt)

/-- DAA and DAS adjust AL by 6 and 60H as AF, CF and the old AL say and set CF and AF so, and SF, ZF and PF by the new
AL (R305, R306); after the addition or subtraction of packed decimal bytes they leave the decimal result, with the
decimal carry or borrow in CF. -/
def Obligations.DecimalAdjustsAreDecimal : Prop :=
  ∀ s : State,
    let al : Byte := s.getReg .byte .ax_al
    let lo := decide (9 < al.toNat % 16) || s.flags.af
    let hi := decide (0x99 < al.toNat) || s.flags.cf
    (∃ t, exec .daa s = .next t ∧ SameButRegsFlags s t ∧ SameControlFlags s t ∧
      t.regs = (s.setReg .byte .ax_al (al + (if lo then 6 else 0) + (if hi then 0x60 else 0))).regs ∧
      t.flags.af = lo ∧ t.flags.cf = hi ∧
      (t.flags.zf = true ↔ t.getReg .byte .ax_al = 0#8) ∧
      (t.flags.sf = true ↔ (t.getReg .byte .ax_al).toInt < 0) ∧
      (t.flags.pf = true ↔ evenParity (t.getReg .byte .ax_al)) ∧
      (∀ x y : Nat, x < 100 → y < 100 → al = packed x + packed y →
        s.flags.cf = (s.flags.add (packed x) (packed y) false).cf →
        s.flags.af = (s.flags.add (packed x) (packed y) false).af →
        t.getReg .byte .ax_al = packed ((x + y) % 100) ∧ t.flags.cf = decide (100 ≤ x + y))) ∧
    (∃ t, exec .das s = .next t ∧ SameButRegsFlags s t ∧ SameControlFlags s t ∧
      t.regs = (s.setReg .byte .ax_al (al - (if lo then 6 else 0) - (if hi then 0x60 else 0))).regs ∧
      t.flags.af = lo ∧ t.flags.cf = hi ∧
      (t.flags.zf = true ↔ t.getReg .byte .ax_al = 0#8) ∧
      (t.flags.sf = true ↔ (t.getReg .byte .ax_al).toInt < 0) ∧
      (t.flags.pf = true ↔ evenParity (t.getReg .byte .ax_al)) ∧
      (∀ x y : Nat, x < 100 → y < 100 → al = packed x - packed y →
        s.flags.cf = (s.flags.sub (packed x) (packed y) false).cf →
        s.flags.af = (s.flags.sub (packed x) (packed y) false).af →
        t.getReg .byte .ax_al = packed ((x + 100 - y) % 100) ∧ t.flags.cf = decide (x < y)))

/-! ### Logic, shifts, rotates -/

/-- AND, OR and XOR write their result, TEST only sets the flags, NOT inverts and leaves the flags (R320 to R332);
of a logical result CF and OF are 0, SF, ZF and PF describe it, AF is free (R17). -/
def Obligations.LogicResults : Prop :=
  ∀ s : State, s.undisturbed = true →
    (∀ d w rm reg, plainLoc s w (s.locate rm) = true →
      let l := dstOf s d rm reg
      let a := valueOf s w l
      let b := valueOf s w (srcOf s d rm reg)
      exec (.andRmReg d w rm reg) s = .next (logicalTo s w l (a &&& b)) ∧
      exec (.orRmReg d w rm reg) s = .next (logicalTo s w l (a ||| b)) ∧
      exec (.xorRmReg d w rm reg) s = .next (logicalTo s w l (a ^^^ b))) ∧
    (∀ w rm reg, plainLoc s w (s.locate rm) = true →
      exec (.testRmReg w rm reg) s = .next (s.logicFlags (valueOf s w (s.locate rm) &&& s.getReg w reg)) ∧
      exec (.notRm w rm) s = .next (putOf s w (s.locate rm) (~~~ valueOf s w (s.locate rm)))) ∧
    (∀ rm imm, plainLoc s imm.width (s.locate rm) = true →
      let l := s.locate rm
      let a := valueOf s imm.width l
      exec (.andRmImm rm imm) s = .next (logicalTo s imm.width l (a &&& imm.value)) ∧
      exec (.orRmImm rm imm) s = .next (logicalTo s imm.width l (a ||| imm.value)) ∧
      exec (.xorRmImm rm imm) s = .next (logicalTo s imm.width l (a ^^^ imm.value)) ∧
      exec (.testRmImm rm imm) s = .next (s.logicFlags (a &&& imm.value))) ∧
    (∀ imm : Imm,
      let a := s.getReg imm.width .ax_al
      exec (.andAccImm imm) s = .next (logicalTo s imm.width (.reg .ax_al) (a &&& imm.value)) ∧
      exec (.orAccImm imm) s = .next (logicalTo s imm.width (.reg .ax_al) (a ||| imm.value)) ∧
      exec (.xorAccImm imm) s = .next (logicalTo s imm.width (.reg .ax_al) (a ^^^ imm.value)) ∧
      exec (.testAccImm imm) s = .next (s.logicFlags (a &&& imm.value))) ∧
    (∀ (w : Width) (r : BitVec w.bits),
      let g := (s.logicFlags r).flags
      g.cf = false ∧ g.ofl = false ∧ (g.zf = true ↔ r = 0) ∧ (g.sf = true ↔ r.toInt < 0) ∧
      (g.pf = true ↔ evenParity r) ∧
      g.tf = s.flags.tf ∧ g.ifl = s.flags.ifl ∧ g.df = s.flags.df)

/-- The shifts and rotates by 1, by CL and by an immediate count do the selected operation the effective number of
times, which is the count modulo 32; a count of 0 changes nothing (R334, R342). That the count is taken modulo 32 is the
spec's decision D12 (log 15). -/
def Obligations.ShiftResults : Prop :=
  ∀ (s : State) (w : Width) (rm : RM) (k : Byte), s.undisturbed = true → plainLoc s w (s.locate rm) = true →
    let l := s.locate rm
    let cl := s.regs.cx.extractLsb' 0 8
    (exec (.rolRm1 w rm) s = .next (shifted s .rol w l 1) ∧ exec (.rolRmCl w rm) s = .next (shifted s .rol w l cl) ∧
      exec (.rolRmImm w rm k) s = .next (shifted s .rol w l k)) ∧
    (exec (.rorRm1 w rm) s = .next (shifted s .ror w l 1) ∧ exec (.rorRmCl w rm) s = .next (shifted s .ror w l cl) ∧
      exec (.rorRmImm w rm k) s = .next (shifted s .ror w l k)) ∧
    (exec (.rclRm1 w rm) s = .next (shifted s .rcl w l 1) ∧ exec (.rclRmCl w rm) s = .next (shifted s .rcl w l cl) ∧
      exec (.rclRmImm w rm k) s = .next (shifted s .rcl w l k)) ∧
    (exec (.rcrRm1 w rm) s = .next (shifted s .rcr w l 1) ∧ exec (.rcrRmCl w rm) s = .next (shifted s .rcr w l cl) ∧
      exec (.rcrRmImm w rm k) s = .next (shifted s .rcr w l k)) ∧
    (exec (.shlRm1 w rm) s = .next (shifted s .shl w l 1) ∧ exec (.shlRmCl w rm) s = .next (shifted s .shl w l cl) ∧
      exec (.shlRmImm w rm k) s = .next (shifted s .shl w l k)) ∧
    (exec (.shrRm1 w rm) s = .next (shifted s .shr w l 1) ∧ exec (.shrRmCl w rm) s = .next (shifted s .shr w l cl) ∧
      exec (.shrRmImm w rm k) s = .next (shifted s .shr w l k)) ∧
    (exec (.sarRm1 w rm) s = .next (shifted s .sar w l 1) ∧ exec (.sarRmCl w rm) s = .next (shifted s .sar w l cl) ∧
      exec (.sarRmImm w rm k) s = .next (shifted s .sar w l k)) ∧
    shiftCount k = k.toNat % 32 ∧ (k.toNat % 32 = 0 → ∀ op, shifted s op w l k = s)

/-- What n steps make of an operand and CF, without the steps: the shifts are the shifts of the whole operand, the
rotates its rotations, the rotates through CF those of the W + 1 bits of CF and the operand (R335 to R342). The flags
after them: CF the last bit moved out; OF, for a count of 1, as each rule says; SF, ZF and PF of the result after a
shift, and as they were after a rotate; the other flags stay but for AF after a shift, which is free (log 4). -/
def Obligations.ShiftStepsAreShifts : Prop :=
  ∀ (w : Width) (x : BitVec w.bits) (c : Bool) (k : Nat),
    let n := k + 1
    ShiftOp.run .shl n x c = (x <<< n, if n ≤ w.bits then x.getLsbD (w.bits - n) else false) ∧
    ShiftOp.run .shr n x c = (x >>> n, x.getLsbD k) ∧
    ShiftOp.run .sar n x c = (x.sshiftRight n, if n ≤ w.bits then x.getLsbD k else x.msb) ∧
    ShiftOp.run .rol n x c = (x.rotateLeft n, (x.rotateLeft n).getLsbD 0) ∧
    ShiftOp.run .ror n x c = (x.rotateRight n, (x.rotateRight n).msb) ∧
    (let y := ShiftOp.run .rcl n x c
     BitVec.ofBool y.2 ++ y.1 = (BitVec.ofBool c ++ x).rotateLeft n) ∧
    (let y := ShiftOp.run .rcr n x c
     BitVec.ofBool y.2 ++ y.1 = (BitVec.ofBool c ++ x).rotateRight n) ∧
    (∀ (s : State) (op : ShiftOp),
      let y := ShiftOp.run op n x c
      let g := (s.shiftFlags op n x y.1 y.2).flags
      g.cf = y.2 ∧ g.tf = s.flags.tf ∧ g.ifl = s.flags.ifl ∧ g.df = s.flags.df ∧
      (op = .rol ∨ op = .ror ∨ op = .rcl ∨ op = .rcr →
        g.sf = s.flags.sf ∧ g.zf = s.flags.zf ∧ g.af = s.flags.af ∧ g.pf = s.flags.pf) ∧
      (op = .shl ∨ op = .shr ∨ op = .sar →
        (g.zf = true ↔ y.1 = 0) ∧ (g.sf = true ↔ y.1.toInt < 0) ∧ (g.pf = true ↔ evenParity y.1)) ∧
      (n = 1 →
        (op = .rol ∨ op = .rcl ∨ op = .shl → g.ofl = (y.1.getLsbD (w.bits - 1) ^^ y.2)) ∧
        (op = .ror ∨ op = .rcr → g.ofl = (y.1.getLsbD (w.bits - 1) ^^ y.1.getLsbD (w.bits - 2))) ∧
        (op = .shr → g.ofl = x.getLsbD (w.bits - 1)) ∧ (op = .sar → g.ofl = false)))

/-! ### Strings -/

/-- One element of each string instruction without a repeat prefix (R350 to R357). Under a repeat prefix: with CX = 0
nothing is done; else one element, then CX is decremented, and the repetition goes on unless CX is 0 or, for CMPS and
SCAS, ZF differs from the prefix's z (R360). One element is one step (log 10). INS reads what the platform presents at
the port in DX and OUTS makes one entry in the record of port writes; that a port without data reads a free value, that
a word at an odd port, which is two byte cycles (R150), is one entry of that record, and that the second byte of a word
at port FFFFH is at port 0000H, is log 6. -/
def Obligations.StringResults : Prop :=
  ∀ (s : State) (op : StringOp) (w : Width), s.undisturbed = true →
    (s.pfx.rep = none → elementHeld s op w = true →
      exec (stringInstr op w) s = .next (elementDone s op w)) ∧
    (∀ z, s.pfx.rep = some z →
      (s.regs.cx = 0 → exec (stringInstr op w) s = .next { s with activity := .running }) ∧
      (s.regs.cx ≠ 0 → elementHeld s op w = true →
        let e := elementDone s op w
        let ends := decide (s.regs.cx = 1) ||
          ((decide (op = .cmps) || decide (op = .scas)) && (e.flags.zf != z))
        exec (stringInstr op w) s =
          .next { e with regs := { e.regs with cx := s.regs.cx - 1 }
                         activity := if ends then .running else .repeating op w }))

/-! ### Control transfer -/

/-- The sixteen conditional jumps, LOOP, LOOPZ, LOOPNZ and JCXZ (R385, R387 to R390, R400 to R415), and the five jumps
(R375 to R379). -/
def Obligations.JumpResults : Prop :=
  ∀ (s : State) (d : Byte),
    let f := s.flags
    let u := { s with regs := { s.regs with cx := s.regs.cx - 1 } }
    exec (.jo d) s = .next (jumped s f.ofl d) ∧ exec (.jno d) s = .next (jumped s (!f.ofl) d) ∧
    exec (.jb d) s = .next (jumped s f.cf d) ∧ exec (.jnb d) s = .next (jumped s (!f.cf) d) ∧
    exec (.je d) s = .next (jumped s f.zf d) ∧ exec (.jne d) s = .next (jumped s (!f.zf) d) ∧
    exec (.jbe d) s = .next (jumped s (f.cf || f.zf) d) ∧
    exec (.jnbe d) s = .next (jumped s (!f.cf && !f.zf) d) ∧
    exec (.js d) s = .next (jumped s f.sf d) ∧ exec (.jns d) s = .next (jumped s (!f.sf) d) ∧
    exec (.jp d) s = .next (jumped s f.pf d) ∧ exec (.jnp d) s = .next (jumped s (!f.pf) d) ∧
    exec (.jl d) s = .next (jumped s (f.sf ^^ f.ofl) d) ∧
    exec (.jnl d) s = .next (jumped s (!(f.sf ^^ f.ofl)) d) ∧
    exec (.jle d) s = .next (jumped s (f.zf || (f.sf ^^ f.ofl)) d) ∧
    exec (.jnle d) s = .next (jumped s (!f.zf && !(f.sf ^^ f.ofl)) d) ∧
    exec (.loop d) s = .next (jumped u (decide (s.regs.cx ≠ 1)) d) ∧
    exec (.loopz d) s = .next (jumped u (decide (s.regs.cx ≠ 1) && f.zf) d) ∧
    exec (.loopnz d) s = .next (jumped u (decide (s.regs.cx ≠ 1) && !f.zf) d) ∧
    exec (.jcxz d) s = .next (jumped s (decide (s.regs.cx = 0)) d) ∧
    (∀ d, exec (.jmpShort d) s = .next { s with ip := s.ip + d.signExtend 16, stale := [] }) ∧
    (∀ d, exec (.jmpNear d) s = .next { s with ip := s.ip + d, stale := [] }) ∧
    (∀ rm, s.undisturbed = true → plainLoc s .word (s.locate rm) = true →
      exec (.jmpNearRm rm) s = .next { s with ip := valueOf s .word (s.locate rm), stale := [] }) ∧
    (∀ off seg, exec (.jmpFar off seg) s =
      .next { s with segs := { s.segs with cs := seg }, ip := off, stale := [] }) ∧
    (∀ mem, s.undisturbed = true → plainPointer s (s.memSeg mem) (s.ea mem) = true →
      exec (.jmpFarMem mem) s =
        .next { s with
          segs := { s.segs with cs := s.loadWord (phys (s.memSeg mem) (s.ea mem + 2)) }
          ip := s.loadWord (phys (s.memSeg mem) (s.ea mem)), stale := [] })

/-- After a compare the jumps by "below" and "above" are unsigned comparisons of the operands, those by "less" and
"greater" signed ones (R385, R402 to R407, R412 to R415). -/
def Obligations.JumpsAfterCompareAreComparisons : Prop :=
  ∀ (s : State) (w : Width) (a b : BitVec w.bits) (d : Byte),
    let u := compared s w a b
    exec (.je d) u = .next (jumped u (decide (a = b)) d) ∧
    exec (.jne d) u = .next (jumped u (decide (a ≠ b)) d) ∧
    exec (.jb d) u = .next (jumped u (decide (a.toNat < b.toNat)) d) ∧
    exec (.jnb d) u = .next (jumped u (decide (b.toNat ≤ a.toNat)) d) ∧
    exec (.jbe d) u = .next (jumped u (decide (a.toNat ≤ b.toNat)) d) ∧
    exec (.jnbe d) u = .next (jumped u (decide (b.toNat < a.toNat)) d) ∧
    exec (.jl d) u = .next (jumped u (decide (a.toInt < b.toInt)) d) ∧
    exec (.jnl d) u = .next (jumped u (decide (b.toInt ≤ a.toInt)) d) ∧
    exec (.jle d) u = .next (jumped u (decide (a.toInt ≤ b.toInt)) d) ∧
    exec (.jnle d) u = .next (jumped u (decide (b.toInt < a.toInt)) d)

/-- The calls push the return address, CS first for a far one, and jump (R370 to R373). The returns pop IP, and CS for a
far one, then add the immediate to SP (R380 to R383). A call followed by the return of its kind comes back to the next
instruction with every register as it was (R370, R372, R380, R382). -/
def Obligations.CallReturnResults : Prop :=
  ∀ s : State, s.undisturbed = true →
    (plain s .word s.segs.ss (s.regs.sp - 2) = true →
      (∀ d, exec (.callNear d) s = .next ((pushed s s.ip).jump (s.ip + d))) ∧
      (∀ rm, plainLoc s .word (s.locate rm) = true →
        exec (.callNearRm rm) s = .next ((pushed s s.ip).jump (valueOf s .word (s.locate rm))))) ∧
    (roomFor s 2 = true →
      (∀ off seg, exec (.callFar off seg) s =
        .next ((pushed (pushed s s.segs.cs) s.ip).farJump seg off)) ∧
      (∀ mem, plainPointer s (s.memSeg mem) (s.ea mem) = true →
        exec (.callFarMem mem) s =
          .next ((pushed (pushed s s.segs.cs) s.ip).farJump
            (s.loadWord (phys (s.memSeg mem) (s.ea mem + 2)))
            (s.loadWord (phys (s.memSeg mem) (s.ea mem)))))) ∧
    (heldOn s 1 = true →
      exec .retNear s = .next ((s.setSp (s.regs.sp + 2)).jump (stackWord s 0)) ∧
      ∀ k, exec (.retNearImm k) s = .next ((s.setSp (s.regs.sp + 2 + k)).jump (stackWord s 0))) ∧
    (heldOn s 2 = true →
      exec .retFar s = .next ((s.setSp (s.regs.sp + 4)).farJump (stackWord s 1) (stackWord s 0)) ∧
      ∀ k, exec (.retFarImm k) s =
        .next ((s.setSp (s.regs.sp + 4 + k)).farJump (stackWord s 1) (stackWord s 0))) ∧
    (∀ d, s.mem.wf = true → plain s .word s.segs.ss (s.regs.sp - 2) = true →
      ∃ t u, exec (.callNear d) s = .next t ∧ t.ip = s.ip + d ∧ exec .retNear t = .next u ∧
        u.ip = s.ip ∧ u.regs = s.regs ∧ u.segs = s.segs ∧ u.flags = s.flags) ∧
    (∀ off seg, s.mem.wf = true → roomFor s 2 = true →
      ∃ t u, exec (.callFar off seg) s = .next t ∧ t.ip = off ∧ t.segs.cs = seg ∧
        exec .retFar t = .next u ∧ u.ip = s.ip ∧ u.regs = s.regs ∧ u.segs = s.segs ∧ u.flags = s.flags)

/-! ### Interrupts -/

/-- INT, INT 3, INTO and ESC: when each takes its interrupt, with which type and return offset, and that INTO with OF
= 0 and ESC with ET = 0 change nothing (R394, R395, R396, R445, R461, R467). Of an ESC with ET = 1 only the first byte
is fetched before type 7 is raised (R445, R467). -/
def Obligations.InterruptInstructions : Prop :=
  ∀ s : State,
    (s.undisturbed = true → roomFor s 3 = true →
      (∀ n, plainVector s n = true → exec (.intType n) s = .next (interrupted s n s.ip)) ∧
      (plainVector s 3 = true → exec .int3 s = .next (interrupted s 3 s.ip)) ∧
      (plainVector s 4 = true → s.flags.ofl = true → exec .into s = .next (interrupted s 4 s.ip)) ∧
      (∀ ttt lll rm, plainVector s 7 = true → s.reloc.getLsbD 15 = true →
        exec (.esc ttt lll rm) s = .next (interrupted s 7 s.ipStart))) ∧
    (∀ ttt lll rm n, s.fetchLength (.esc ttt lll rm) n = if s.reloc.getLsbD 15 then 1 else n) ∧
    (s.flags.ofl = false → exec .into s = .next s) ∧
    (∀ ttt lll rm, s.reloc.getLsbD 15 = false → s.undisturbed = true →
      plainLoc s .word (s.locate rm) = true → exec (.esc ttt lll rm) s = .next s)

/-- The interrupt sequence: control goes to the address in the table entry, the old FLAGS, CS and the return offset
lie on the stack in that order downwards, IF and TF are 0, the prefetch queue is empty and no instruction is under way;
nothing else changes (R470, R462, R161). That the table is read before the pushes is decision D30 (log 42). -/
def Obligations.InterruptSequence : Prop :=
  ∀ (s : State) (n : Byte) (ret : Word), s.mem.wf = true → s.undisturbed = true → plainVector s n = true →
    roomFor s 3 = true →
    ∃ t, interrupt n ret s = .next t ∧
      t.ip = s.loadWord (BitVec.ofNat 20 (4 * n.toNat)) ∧
      t.segs = { s.segs with cs := s.loadWord (BitVec.ofNat 20 (4 * n.toNat + 2)) } ∧
      t.regs = { s.regs with sp := s.regs.sp - 6 } ∧
      stackWord t 0 = ret ∧ stackWord t 1 = s.segs.cs ∧ stackWord t 2 = s.flags.image ∧
      t.flags = { s.flags with ifl := false, tf := false } ∧
      t = { s with regs := t.regs, segs := t.segs, ip := t.ip, flags := t.flags, mem := t.mem, stale := []
                   pfx := .none, activity := .running } ∧
      ∀ a : Addr, (∀ k, k < 6 → a ≠ phys s.segs.ss (s.regs.sp - 6 + BitVec.ofNat 16 k)) →
        t.loadByte a = s.loadByte a

/-- IRET pops IP, CS and FLAGS and clears DHLT (R397, R108); after an interrupt it comes back to the return offset with
every register, segment register and flag as it was (R470, R476). -/
def Obligations.InterruptReturn : Prop :=
  ∀ s : State, s.undisturbed = true →
    (heldOn s 3 = true →
      exec .iret s =
        .next (({ s with
          regs := { s.regs with sp := s.regs.sp + 6 }
          flags := Flags.ofImage (stackWord s 2)
          intc := { s.intc with dhlt := false } }).farJump (stackWord s 1) (stackWord s 0))) ∧
    (∀ (n : Byte) (ret : Word), s.mem.wf = true → s.pfx.lock = false → plainVector s n = true →
      roomFor s 3 = true →
      ∃ t u, interrupt n ret s = .next t ∧ exec .iret t = .next u ∧
        u.ip = ret ∧ u.regs = s.regs ∧ u.segs = s.segs ∧ u.flags = s.flags)

/-! ### High-level and processor control instructions -/

/-- ENTER: BP is saved and becomes the frame, SP drops by the display and the locals; with a level of 1 or more the
display holds copies of the enclosing frame pointers, where they do not overlap what is pushed, and the new frame
pointer, and memory outside the words pushed stays (R420). That the level is taken modulo 32 is general knowledge of the
part (U6, log 26). -/
def Obligations.EnterBuildsFrame : Prop :=
  ∀ (s : State) (size : Word) (level : Byte) (k : Nat), s.mem.wf = true → s.undisturbed = true →
    (level.toNat % 32 = 0 → roomFor s 1 = true →
      exec (.enter size level) s =
        .next (((pushed s s.regs.bp).setBp (s.regs.sp - 2)).setSp (s.regs.sp - 2 - size))) ∧
    (level.toNat % 32 = k + 1 → roomFor s (k + 2) = true → displayHeld s k = true →
      ∃ t, exec (.enter size level) s = .next t ∧
        t.regs = { s.regs with bp := s.regs.sp - 2, sp := s.regs.sp - BitVec.ofNat 16 (2 * (k + 2)) - size } ∧
        t.segs = s.segs ∧ t.flags = s.flags ∧ t.ip = s.ip ∧
        (∀ a : Addr, (∀ j, j < 2 * (k + 2) → a ≠ phys s.segs.ss (s.regs.sp - BitVec.ofNat 16 (j + 1))) →
          t.loadByte a = s.loadByte a) ∧
        t.loadWord (phys s.segs.ss (s.regs.sp - 2)) = s.regs.bp ∧
        t.loadWord (phys s.segs.ss (s.regs.sp - BitVec.ofNat 16 (2 * (k + 2)))) = s.regs.sp - 2 ∧
        ((∀ i j, i < 2 * k → j < 2 * (k + 2) →
            s.regs.bp - BitVec.ofNat 16 (i + 1) ≠ s.regs.sp - BitVec.ofNat 16 (j + 1)) →
          ∀ i, 1 ≤ i → i ≤ k →
            t.loadWord (phys s.segs.ss (s.regs.sp - BitVec.ofNat 16 (2 * (i + 1)))) =
              s.loadWord (phys s.segs.ss (s.regs.bp - BitVec.ofNat 16 (2 * i)))))

/-- LEAVE undoes the frame (R422); BOUND passes an index within its signed bounds and takes type 5 for another (R424,
R461, R465). That it saves the offset of the next instruction is the spec's choice, on which R424 says a proof must not
depend (U3, log 25). -/
def Obligations.LeaveAndBoundResults : Prop :=
  ∀ s : State, s.undisturbed = true →
    (plain s .word s.segs.ss s.regs.bp = true →
      exec .leave s =
        .next { s with regs := { s.regs with sp := s.regs.bp + 2
                                             bp := s.loadWord (phys s.segs.ss s.regs.bp) } }) ∧
    (∀ reg mem, plain s .word (s.memSeg mem) (s.ea mem) = true →
      plain s .word (s.memSeg mem) (s.ea mem + 2) = true →
      let i := (s.getReg .word reg).toInt
      let lower := (s.loadWord (phys (s.memSeg mem) (s.ea mem))).toInt
      let upper := (s.loadWord (phys (s.memSeg mem) (s.ea mem + 2))).toInt
      (lower ≤ i ∧ i ≤ upper → exec (.bound reg mem) s = .next s) ∧
      (i < lower ∨ upper < i → plainVector s 5 = true → roomFor s 3 = true →
        exec (.bound reg mem) s = .next (interrupted s 5 s.ip)))

/-- The flag instructions, HLT and WAIT (R430 to R436, R440, R441); that STI holds maskable interrupts for one
instruction is decision D15. -/
def Obligations.ProcessorControlResults : Prop :=
  ∀ s : State,
    exec .clc s = .next { s with flags := { s.flags with cf := false } } ∧
    exec .stc s = .next { s with flags := { s.flags with cf := true } } ∧
    exec .cmc s = .next { s with flags := { s.flags with cf := !s.flags.cf } } ∧
    exec .cld s = .next { s with flags := { s.flags with df := false } } ∧
    exec .std s = .next { s with flags := { s.flags with df := true } } ∧
    exec .cli s = .next { s with flags := { s.flags with ifl := false } } ∧
    (s.flags.ifl = true → exec .sti s = .next s) ∧
    (s.flags.ifl = false →
      exec .sti s = .next { s with flags := { s.flags with ifl := true }, inhibitInt := true }) ∧
    exec .hlt s = .next { s with activity := .halted } ∧
    (s.pins.test = false → exec .wait s = .next { s with activity := .running }) ∧
    (s.pins.test = true → exec .wait s = .next { s with activity := .waiting })

/-! ### What an instruction may change -/

/-- The frame of the instructions that compute one value: only the destination, the flags the spec names for the
instruction and the free values' count may change. -/
def Obligations.OnlyTheDestinationChanges : Prop :=
  ∀ (s t : State) (i : Instr) (w : Width) (src : Loc) (dst : Option Loc), s.undisturbed = true →
    destination s i = some (w, src, dst) → plainLoc s w src = true → exec i s = .next t →
    (∀ r, dst ≠ some (.reg r) → t.getReg w r = s.getReg w r) ∧
    (w = .byte → t.regs.sp = s.regs.sp ∧ t.regs.bp = s.regs.bp ∧ t.regs.si = s.regs.si ∧
      t.regs.di = s.regs.di) ∧
    (∀ a : Addr, (∀ l, dst = some l → ¬ Covers w l a) → t.loadByte a = s.loadByte a) ∧
    flagsKept i s.flags t.flags ∧
    t = { s with regs := t.regs, flags := t.flags, mem := t.mem, stale := t.stale, free := t.free }

/-- An instruction that stores to at most one place changes no byte of memory outside it, the address of its
destination operand, of the stack slot below SP or of ES:DI; but for those that store several words or may take an
exception, PUSHA, far CALL, ENTER, DIV, IDIV, BOUND, INT, INT 3, INTO and ESC, whose stores other statements give
(PushaPopaResults, CallReturnResults, EnterBuildsFrame, DivideResults, DivideErrorTraps, LeaveAndBoundResults,
InterruptInstructions, InterruptSequence). -/
def Obligations.OnlyTheStoredPlaceChanges : Prop :=
  ∀ (s t : State) (i : Instr) (p : Option (Width × Loc)), s.undisturbed = true →
    storedBy s i = some p → exec i s = .next t →
    ∀ a : Addr, (∀ w l, p = some (w, l) → ¬ Covers w l a) → t.loadByte a = s.loadByte a

/-- Over all instructions: CS changes only by far transfers, interrupts and exceptions; DS, ES and SS only by the
instructions named for them; TF, IF and DF only by POPF, IRET, the flag instructions and, for TF and IF, by an
interrupt (R26, R37). -/
def Obligations.SegmentsAndControlFlagsGuarded : Prop :=
  ∀ (s t : State) (i : Instr), exec i s = .next t →
    (writesCs i = false → t.segs.cs = s.segs.cs) ∧
    (∀ q, q ≠ .cs → writesSegment i q = false → t.getSeg q = s.getSeg q) ∧
    (writesTf i = false → t.flags.tf = s.flags.tf) ∧
    (writesIf i = false → t.flags.ifl = s.flags.ifl) ∧
    (writesDf i = false → t.flags.df = s.flags.df)

/-! ### The instruction boundary and the interrupt controller -/

/-- The boundary: after a load of a segment register nothing is recognised; else NMI comes before the controller, the
controller needs IF = 1 and no STI delay, and the single step comes last (R471, R472, D15, D28; log 11). An interrupt
taken there returns to IP_start inside a repeated string instruction or the WAIT loop, else to the next instruction
(R361, R441, R471), and what was under way is left. With HOLD HIGH, as it may be after a locked instruction, an
interrupt waits until the bus is the CPU's again, and a locked repetition is left for it, which ends the lock and
starts again with its prefixes (R600, R363, D18); that the boundary is then held in due is log 32. -/
def Obligations.BoundaryOrder : Prop :=
  ∀ (s : State) (t w : Bool),
    let u := { s with inhibitInt := false }
    let nmi := takeInterrupt 2 { u with nmiLatch := false, intc := { u.intc with dhlt := true } }
    let step1 (v : State) : Out := if t && !w then takeInterrupt 1 v else .next v
    (s.inhibit = true → boundary t w s = .next { u with inhibit := false }) ∧
    (s.pins.hold = false → s.inhibit = false → s.nmiLatch = true → boundary t w s = andThen nmi step1) ∧
    (s.pins.hold = false → s.inhibit = false → s.nmiLatch = false → s.flags.ifl = true → s.inhibitInt = false →
      s.presents = true → boundary t w s = andThen (takeMaskable u) step1) ∧
    ((s.pins.hold = false ∨ t = false ∨ w = true) → s.inhibit = false → s.nmiLatch = false →
      (s.flags.ifl = false ∨ s.inhibitInt = true ∨ s.presents = false) → boundary t w s = step1 u) ∧
    (s.pins.hold = true → s.inhibit = false →
      (s.nmiLatch = true ∨ (s.flags.ifl = true ∧ s.inhibitInt = false ∧ s.presents = true) ∨ (t = true ∧ w = false)) →
      ((∀ op v, s.activity ≠ .repeating op v) →
        boundary t w s = .next { s with due := some { traced := t, wait := w } }) ∧
      (∀ op v, s.activity = .repeating op v →
        boundary t w s = .next { s with
          ip := s.ipStart, pfx := .none, activity := .running, due := some { traced := t, wait := w } })) ∧
    (∀ n, (∀ op v, s.activity = .repeating op v →
        takeInterrupt n s = interrupt n s.ipStart { s with pfx := .none, activity := .running }) ∧
      (s.activity = .waiting →
        takeInterrupt n s = interrupt n s.ipStart { s with pfx := .none, activity := .running }) ∧
      (s.activity = .running ∨ s.activity = .halted →
        takeInterrupt n s = interrupt n s.ip { s with pfx := .none, activity := .running }))

/-- A pin change takes one move of the host and sets that pin's level (R530). A rise of NMI, and of no other pin, sets
the latch, and the next boundary that is not inhibited and has the bus takes type 2 and clears it (R46, R475). An INT
pin seen LOW is armed; in level mode its request is its level, in edge mode its level while armed (R492), but INT2 and
INT3 ask for nothing while they are acknowledge outputs: R493 and R496 take them out of the sources then, and that their
requests read 0 too is the model's inference (log 36). A rise of a timer input is an edge while the timer is enabled
(R582). Nothing else changes. -/
def Obligations.PinChanges : Prop :=
  ∀ (s : State) (p : Pin) (high : Bool),
    let t := s.setPin p high
    (∀ rest, s.agenda = .world (.pin p high) :: rest → step s = .next ((s.setAgenda rest).setPin p high)) ∧
    t = { s with pins := t.pins, nmiLatch := t.nmiLatch, intc := t.intc, timers := t.timers } ∧
    t.pins.level p = high ∧ (∀ q, q ≠ p → t.pins.level q = s.pins.level q) ∧
    t.nmiLatch = (s.nmiLatch || (decide (p = .nmi) && high && !s.pins.nmi)) ∧
    (t.nmiLatch = true → t.inhibit = false → t.pins.hold = false → t.undisturbed = true → t.pfx.lock = false →
      plainVector t 2 = true → roomFor t 3 = true → ∃ u, boundary false false t = .next u ∧ u.nmiLatch = false ∧
        u.ip = t.loadWord 8#20 ∧ u.segs.cs = t.loadWord 10#20) ∧
    t.intc = { s.intc with
      armed0 := s.intc.armed0 || (decide (p = .int0) && !high), armed1 := s.intc.armed1 || (decide (p = .int1) && !high)
      armed2 := s.intc.armed2 || (decide (p = .int2) && !high)
      armed3 := s.intc.armed3 || (decide (p = .int3) && !high) } ∧
    (s.intRequest .i0 = (s.pins.int0 && (s.intc.ltm0 || s.intc.armed0)) ∧
      s.intRequest .i1 = (s.pins.int1 && (s.intc.ltm1 || s.intc.armed1)) ∧
      s.intRequest .i2 = (s.pins.int2 && (s.intc.ltm2 || s.intc.armed2) && !s.intc.cas0) ∧
      s.intRequest .i3 = (s.pins.int3 && (s.intc.ltm3 || s.intc.armed3) && !s.intc.cas1)) ∧
    t.timers = { s.timers with
      t0 := { s.timers.t0 with
        edge := s.timers.t0.edge || (decide (p = .tmrIn0) && high && !s.pins.tmrIn0 && s.timers.t0.en) }
      t1 := { s.timers.t1 with
        edge := s.timers.t1.edge || (decide (p = .tmrIn1) && high && !s.pins.tmrIn1 && s.timers.t1.en) } }

/-- The controller presents exactly the eligible source of smallest level, and of equal levels the one first in the
default order; a source is eligible by the six conditions (R493). That an equal level in service holds off is D29, and
that INT2 and INT3 in service do not while they are acknowledge outputs is log 36. -/
def Obligations.HighestEligibleIsPresented : Prop :=
  ∀ s : State,
    (∀ k, s.eligible k = true ↔
      s.intRequest k = true ∧ (s.intc.source k).msk = false ∧
      (s.intc.source k).pr.toNat ≤ s.intc.prm.toNat ∧
      ((s.intc.source k).isv = false ∨ s.intc.special k = true) ∧
      ∀ u, u ≠ k → s.intc.isSource u = true → (s.intc.source u).isv = true →
        (s.intc.source k).pr.toNat < (s.intc.source u).pr.toNat) ∧
    (∀ k, s.presented = some k ↔ s.eligible k = true ∧
      ∀ u, s.eligible u = true →
        (s.intc.source k).pr.toNat < (s.intc.source u).pr.toNat ∨
        ((s.intc.source k).pr.toNat = (s.intc.source u).pr.toNat ∧ k.default ≤ u.default)) ∧
    (s.presented = none ↔ ∀ k, s.eligible k = false)

/-- A priority mask of 4 keeps levels 5, 6 and 7 from being eligible; one of 7 keeps none. -/
def Obligations.PriorityMaskExample : Prop :=
  (∀ (s t : State) (k : IntSource), s.writeReg .prioMask 0x0004#16 = .next t →
    5 ≤ (t.intc.source k).pr.toNat → t.eligible k = false) ∧
  (∀ (s : State) (k : IntSource), s.intc.prm = State.reset.intc.prm →
    (s.intc.source k).pr.toNat ≤ s.intc.prm.toNat)

/-- The acknowledge of the presented source sets its in-service bit and no other, resets its request and no other, and
leaves it ineligible unless it is in special fully nested mode: of the timers the lowest-numbered request alone, of
the DMA channels the bit, of a pin in edge mode the armed bit, a pin in level mode asking on. The vector is the
source's fixed type, or in cascade mode the external byte, with the two INTA cycles on INTA0 or INTA1 (R492, R495,
R496). That a cascaded pin in edge mode is disarmed too is log 36, that an internally vectored source shows no INTA
cycle log 45 (R495 leaves it open). -/
def Obligations.AcknowledgeServesPresented : Prop :=
  ∀ (s : State) (k : IntSource), s.rmx = false → s.presented = some k →
    let t := s.acknowledged k
    takeMaskable s = takeInterrupt (s.ackVector k) ((s.intaCycles k).acknowledged k) ∧
    (t.intc.source k).isv = true ∧
    (∀ u, u ≠ k → (t.intc.source u).isv = (s.intc.source u).isv) ∧
    (s.intc.special k = false → t.eligible k = false) ∧
    (∀ u, u ≠ k → t.intRequest u = s.intRequest u) ∧
    (k ≠ .tmr → t.intRequest k = s.intc.level k) ∧
    (k = .tmr →
      t.intc.irt0 = false ∧ t.intc.irt1 = (s.intc.irt1 && s.intc.irt0) ∧
      t.intc.irt2 = (s.intc.irt2 && (s.intc.irt0 || s.intc.irt1))) ∧
    (k ≠ .tmr → t.intc.irt0 = s.intc.irt0 ∧ t.intc.irt1 = s.intc.irt1 ∧ t.intc.irt2 = s.intc.irt2) ∧
    (k = .d0 → t.intc.irD0 = false) ∧ (k = .d1 → t.intc.irD1 = false) ∧
    (k = .i0 → t.intc.armed0 = (s.intc.armed0 && s.intc.ltm0)) ∧ (k = .i1 → t.intc.armed1 = (s.intc.armed1 && s.intc.ltm1)) ∧
    (k = .i2 → t.intc.armed2 = (s.intc.armed2 && s.intc.ltm2)) ∧ (k = .i3 → t.intc.armed3 = (s.intc.armed3 && s.intc.ltm3)) ∧
    (s.intc.cascade k = true → s.ackVector k = s.intaByte ∧
      s.intaCycles k = { s with acks := (if k = .i0 then .int2 else .int3) :: s.acks }) ∧
    (s.intc.cascade k = false → s.intaCycles k = s ∧
      (s.ackVector k).toNat = match k with
        | .tmr => if s.intc.irt0 then 8 else if s.intc.irt1 then 18 else 19
        | .d0 => 10
        | .d1 => 11
        | .i0 => 12
        | .i1 => 13
        | .i2 => 14
        | .i3 => 15)

/-- An end of interrupt: the nonspecific command resets the in-service bit of the highest-priority source that has
one, the specific command that of the source it names, and no other bit changes (R109, R498). That the nonspecific
command passes over INT2 and INT3 while they are acknowledge outputs is log 36. -/
def Obligations.EndOfInterruptResets : Prop :=
  ∀ (c : Intc) (k : IntSource),
    (∀ v : Word, v.getLsbD 15 = true → c.isSource k = true → (c.source k).isv = true →
      (∀ u, c.isSource u = true → (c.source u).isv = true →
        (c.source k).pr.toNat < (c.source u).pr.toNat ∨
        ((c.source k).pr.toNat = (c.source u).pr.toNat ∧ k.default ≤ u.default)) →
      c.eoi v = c.setService k false) ∧
    (∀ v : Word, v.getLsbD 15 = false →
      v.toNat % 32 = (match k with
        | .tmr => 8
        | .d0 => 10
        | .d1 => 11
        | .i0 => 12
        | .i1 => 13
        | .i2 => 14
        | .i3 => 15) →
      c.eoi v = c.setService k false) ∧
    ((c.setService k false).source k).isv = false ∧
    (∀ u, u ≠ k → (c.setService k false).source u = c.source u)

/-- Polling: with a request presented, both words read bit 15 and its type; Poll acknowledges it, Poll Status changes
nothing; with none presented bit 15 reads 0 (R110, R512). That a poll of a pin in cascade mode shows type 12 or 13 is
log 36 (U19). -/
def Obligations.PollWords : Prop :=
  ∀ s : State,
    (∀ k, s.presented = some k →
      s.readReg .poll = (0x8000#16 ||| (s.intc.vectorType k).setWidth 16, s.acknowledged k) ∧
      s.readReg .pollStatus = (0x8000#16 ||| (s.intc.vectorType k).setWidth 16, s)) ∧
    (s.presented = none →
      (s.readReg .poll).1.getLsbD 15 = false ∧ (s.readReg .pollStatus).1.getLsbD 15 = false ∧
      (s.readReg .poll).2.intc = s.intc ∧ (s.readReg .pollStatus).2.intc = s.intc)

/-- In iRMX mode an acknowledge that selects this slave takes the eligible source of the lowest level, with the vector
made of IVR's upper five bits and that level; one that does not, the external byte; INT2 is the acknowledge output
(R119, R521, R523, R524). With IVR = 40H and timer 1 alone the vector is 44H (R537). A source is eligible by
its request, its mask, the level mask and the in-service bits, an equal level not masking (R523, D32); the CPU's request
is INT0 HIGH (R524), the slave's own is on INT3 (R523). That INT1 HIGH means selected is the model's choice (log 44). -/
def Obligations.SlaveModeAcknowledge : Prop :=
  ∀ s : State, s.rmx = true →
    (s.pins.int1 = false →
      takeMaskable s = takeInterrupt s.intaByte { s with acks := .int2 :: s.acks }) ∧
    (∀ k, s.pins.int1 = true → s.intc.rmxLevelsOk = true → s.intc.rmxEligible k = true →
      (∀ u, s.intc.rmxEligible u = true → k.levelOf.toNat ≤ u.levelOf.toNat) →
      ∃ n : Byte,
        takeMaskable s =
          takeInterrupt n { s with acks := .int2 :: s.acks, intc := s.intc.rmxAcknowledged k } ∧
        n.toNat = s.intc.ivr.toNat / 8 * 8 + k.levelOf.toNat ∧
        ((s.intc.rmxAcknowledged k).rmxSource k).isv = true ∧
        (s.intc.rmxAcknowledged k).rmxRequest k = false ∧
        (s.intc.ivr = 0x40#8 → k = .t1 → n = 0x44#8)) ∧
    (let level : RmxSource → Nat := fun k => match k with
        | .t0 => 0
        | .d0 => 2
        | .d1 => 3
        | .t1 => 4
        | .t2 => 5
     let request : RmxSource → Bool := fun k => match k with
        | .t0 => s.intc.irt0
        | .d0 => s.intc.irD0
        | .d1 => s.intc.irD1
        | .t1 => s.intc.irt1
        | .t2 => s.intc.irt2
     (∀ k, k.levelOf.toNat = level k) ∧
     (∀ k, s.intc.rmxEligible k = true ↔
        request k = true ∧ (s.intc.rmxSource k).msk = false ∧ level k ≤ s.intc.rMask.toNat ∧
        ∀ u, (s.intc.rmxSource u).isv = true → level k ≤ level u) ∧
     (s.intc.rmxLevelsOk = true ↔ ∀ k, (s.intc.rmxSource k).pr.toNat = level k)) ∧
    s.presents = s.pins.int0 ∧ (s.slaveRequest = true ↔ ∃ k, s.intc.rmxEligible k = true)

/-- The offset map of the control block: at each offset of an aligned word the register the spec names there is read
and written, the interrupt controller's in master or in iRMX 86 mode by relocation bit 14 (R64, R75, R88, R100, R116).
Most of the controller's offsets are general knowledge of the part (log 26). An offset with no register, or with one
of the other mode alone, reads a free word and refuses a write (U11, log 18). -/
def Obligations.BlockOffsets : Prop :=
  ∀ (s : State) (v : Word),
    let here := offsetMap (s.reloc.getLsbD 14)
    (∀ off r, (off, r) ∈ here → s.readBlock off = s.readReg r ∧ s.writeBlock off v = s.writeReg r v) ∧
    (∀ off : Byte, off.getLsbD 0 = false → (∀ r, (off, r) ∉ here) →
      s.readBlock off = (s.freeWord, s.drawn 1) ∧ s.writeBlock off v = .refused .blockHoleWrite)

/-- What registers of the control block read and how a write changes them. The DMA control word keeps ST/STOP unless
CHG/NOCHG is written 1, and reads 0 in that bit (R78); each DMA pointer is its low word and four bits of its high
word, whose other bits read free and are not written (R76, U13; log 5), and the count is read and written whole (R77).
In-Service, Request and Mask share one bit assignment (R101), and Mask and the control words one mask bit (R102 to
R104); the priority mask (R105), the control words and Interrupt Status (R106 to R108), the EOI register (R109); the
specific end of interrupt of iRMX mode (R525). The model's choices: that a channel started with SYN = 11, and SFNM
without C, is refused (log 34; U14, U17, R497); the places of most bits, which are general knowledge of the part (log
26); that DMA control bit 3 and the unnamed bits of the interrupt registers read 0 (log 37; U8); that the mask bit is
stored once (log 38). -/
def Obligations.RegisterImages : Prop :=
  ∀ (s : State) (v : Word),
    (∀ c : Channel,
      let st := if v.getLsbD 2 then v.getLsbD 1 else (s.chan c).ctrl.getLsbD 1
      (st = true ∧ v.extractLsb' 6 2 = 3#2 → s.writeReg (.dmaCtrl c) v = .refused .dmaSynUnused) ∧
      (¬ (st = true ∧ v.extractLsb' 6 2 = 3#2) →
        ∃ t, s.writeReg (.dmaCtrl c) v = .next t ∧ t.chan c.other = s.chan c.other ∧ t = { s with dma := t.dma } ∧
          ∀ i, i < 16 → (t.readReg (.dmaCtrl c)).1.getLsbD i =
            if i = 1 then st else if i = 2 ∨ i = 3 then false else v.getLsbD i)) ∧
    (∀ c : Channel,
      let d := s.chan c
      let low := fun (p : Addr) => BitVec.ofNat 20 (p.toNat / 65536 * 65536 + v.toNat)
      let high := fun (p : Addr) => BitVec.ofNat 20 (v.toNat % 16 * 65536 + p.toNat % 65536)
      s.writeReg (.dmaSrcLow c) v = .next (s.setChan c { d with src := low d.src }) ∧
      s.writeReg (.dmaSrcHigh c) v = .next (s.setChan c { d with src := high d.src }) ∧
      s.writeReg (.dmaDstLow c) v = .next (s.setChan c { d with dst := low d.dst }) ∧
      s.writeReg (.dmaDstHigh c) v = .next (s.setChan c { d with dst := high d.dst }) ∧
      s.writeReg (.dmaCount c) v = .next (s.setChan c { d with count := v }) ∧
      (s.readReg (.dmaSrcLow c)).1.toNat = d.src.toNat % 65536 ∧ (s.readReg (.dmaSrcLow c)).2 = s ∧
      (s.readReg (.dmaSrcHigh c)).1.toNat % 16 = d.src.toNat / 65536 ∧
      (s.readReg (.dmaSrcHigh c)).2 = s.drawn 1 ∧
      (s.readReg (.dmaDstLow c)).1.toNat = d.dst.toNat % 65536 ∧ (s.readReg (.dmaDstLow c)).2 = s ∧
      (s.readReg (.dmaDstHigh c)).1.toNat % 16 = d.dst.toNat / 65536 ∧
      (s.readReg (.dmaDstHigh c)).2 = s.drawn 1 ∧
      s.readReg (.dmaCount c) = (d.count, s)) ∧
    (s.writeReg .prioMask v = .next { s with intc := { s.intc with prm := v.extractLsb' 0 3 } } ∧
      (s.readReg .prioMask).1.toNat = s.intc.prm.toNat ∧ (s.readReg .prioMask).2 = s ∧
      s.writeReg .eoi v = .next { s with intc := s.intc.eoi v }) ∧
    (let bit : IntSource → Nat := fun k => match k with
        | .tmr => 0
        | .d0 => 2
        | .d1 => 3
        | .i0 => 4
        | .i1 => 5
        | .i2 => 6
        | .i3 => 7
     let ctrl : State → IntSource → Word := fun t k => (t.readReg (.srcCtrl k)).1
     (∀ k, (s.readReg .inService).1.getLsbD (bit k) = (s.intc.source k).isv ∧
        (s.readReg .intRequest).1.getLsbD (bit k) = s.intRequest k ∧
        (s.readReg .mask).1.getLsbD (bit k) = (s.intc.source k).msk ∧
        (ctrl s k).extractLsb' 0 3 = (s.intc.source k).pr ∧ (ctrl s k).getLsbD 3 = (s.intc.source k).msk ∧
        (ctrl s k).getLsbD 4 = s.intc.level k ∧ (ctrl s k).getLsbD 5 = s.intc.cascade k ∧
        (ctrl s k).getLsbD 6 = s.intc.special k) ∧
     (∃ t, s.writeReg .mask v = .next t ∧
        ∀ k, t.intc.source k = { s.intc.source k with msk := v.getLsbD (bit k) } ∧
          (ctrl t k).getLsbD 3 = v.getLsbD (bit k)) ∧
     (∃ t, s.writeReg .inService v = .next t ∧
        ∀ k, t.intc.source k = { s.intc.source k with isv := v.getLsbD (bit k) }) ∧
     (∀ k, (k = .i0 ∨ k = .i1) → v.getLsbD 6 = true → v.getLsbD 5 = false →
        s.writeReg (.srcCtrl k) v = .refused .sfnmWithoutCascade) ∧
     (∀ k, (v.getLsbD 6 = false ∨ v.getLsbD 5 = true ∨ (k ≠ .i0 ∧ k ≠ .i1)) →
        ∃ t, s.writeReg (.srcCtrl k) v = .next t ∧
          t.intc.source k = { s.intc.source k with pr := v.extractLsb' 0 3, msk := v.getLsbD 3 } ∧
          ctrl t k = v &&& (match k with
            | .i0 => 0x007F#16
            | .i1 => 0x007F#16
            | .i2 => 0x001F#16
            | .i3 => 0x001F#16
            | _ => 0x000F#16) ∧
          (t.readReg .mask).1.getLsbD (bit k) = v.getLsbD 3 ∧
          ∀ j, j ≠ k → t.intc.source j = s.intc.source j ∧ ctrl t j = ctrl s j)) ∧
    (let status := (s.readReg .intStatus).1
     status.getLsbD 15 = s.intc.dhlt ∧ status.getLsbD 2 = s.intc.irt2 ∧ status.getLsbD 1 = s.intc.irt1 ∧
     status.getLsbD 0 = s.intc.irt0 ∧
     s.writeReg .intStatus v = .next { s with intc := { s.intc with
       dhlt := v.getLsbD 15, irt2 := v.getLsbD 2, irt1 := v.getLsbD 1, irt0 := v.getLsbD 0 } }) ∧
    s.writeReg .intRequest v =
      .next { s with intc := { s.intc with irD0 := v.getLsbD 2, irD1 := v.getLsbD 3 } } ∧
    (∀ k : RmxSource, v.toNat % 8 = (match k with
        | .t0 => 0
        | .d0 => 2
        | .d1 => 3
        | .t1 => 4
        | .t2 => 5) →
      ∃ t, s.writeReg .rmxEoi v = .next t ∧ t.intc.rmxSource k = { s.intc.rmxSource k with isv := false } ∧
        ∀ j, j ≠ k → t.intc.rmxSource j = s.intc.rmxSource j)

/-- The registers of iRMX 86 mode. In-Service, Request and Mask share one bit assignment, a source's bit number being
its level, and each is read and written in it (R116, R117, R522); a control word holds level and mask, and one with
another level than Table 16's is refused (R118, R522, U21); the priority-level mask is bits 2 to 0 (R121), and the
vector register keeps the upper five bits of the byte (R119). The positions are partly general knowledge of the part
(log 26), that the unnamed bits read 0 is log 37, that the mask bit of a source is stored once log 38, the refusal log
20. -/
def Obligations.SlaveModeRegisters : Prop :=
  ∀ (s : State) (v : Word),
    let bit : RmxSource → Nat := fun k => match k with
      | .t0 => 0
      | .d0 => 2
      | .d1 => 3
      | .t1 => 4
      | .t2 => 5
    let c := s.intc
    (∀ k, (s.readReg .rmxService).1.getLsbD (bit k) = (c.rmxSource k).isv ∧
      (s.readReg .rmxMask).1.getLsbD (bit k) = (c.rmxSource k).msk ∧
      (s.readReg .rmxRequest).1.getLsbD (bit k) = (match k with
        | .t0 => c.irt0
        | .d0 => c.irD0
        | .d1 => c.irD1
        | .t1 => c.irt1
        | .t2 => c.irt2) ∧
      (s.readReg (.rmxCtrl k)).1.toNat =
        (c.rmxSource k).pr.toNat + 8 * (c.rmxSource k).msk.toNat) ∧
    (∀ i, (∀ k, i ≠ bit k) → (s.readReg .rmxService).1.getLsbD i = false ∧
      (s.readReg .rmxMask).1.getLsbD i = false ∧ (s.readReg .rmxRequest).1.getLsbD i = false) ∧
    s.writeReg .rmxService v = .next { s with intc := { c with
      rT0 := { c.rT0 with isv := v.getLsbD 0 }, rD0 := { c.rD0 with isv := v.getLsbD 2 }
      rD1 := { c.rD1 with isv := v.getLsbD 3 }, rT1 := { c.rT1 with isv := v.getLsbD 4 }
      rT2 := { c.rT2 with isv := v.getLsbD 5 } } } ∧
    s.writeReg .rmxMask v = .next { s with intc := { c with
      rT0 := { c.rT0 with msk := v.getLsbD 0 }, rD0 := { c.rD0 with msk := v.getLsbD 2 }
      rD1 := { c.rD1 with msk := v.getLsbD 3 }, rT1 := { c.rT1 with msk := v.getLsbD 4 }
      rT2 := { c.rT2 with msk := v.getLsbD 5 } } } ∧
    s.writeReg .rmxRequest v = .next { s with intc := { c with
      irt0 := v.getLsbD 0, irD0 := v.getLsbD 2, irD1 := v.getLsbD 3, irt1 := v.getLsbD 4, irt2 := v.getLsbD 5 } } ∧
    (∀ k, (v.toNat % 8 ≠ bit k → s.writeReg (.rmxCtrl k) v = .refused .irmxLevel) ∧
      (v.toNat % 8 = bit k →
        ∃ t, s.writeReg (.rmxCtrl k) v = .next t ∧ t = { s with intc := t.intc } ∧
          t.intc.rmxSource k = { c.rmxSource k with pr := v.extractLsb' 0 3, msk := v.getLsbD 3 } ∧
          (t.readReg (.rmxCtrl k)).1.toNat = v.toNat % 16 ∧
          (∀ j, j ≠ k → t.intc.rmxSource j = c.rmxSource j) ∧
          t.intc = { c with rT0 := t.intc.rT0, rD0 := t.intc.rD0, rD1 := t.intc.rD1, rT1 := t.intc.rT1
                            rT2 := t.intc.rT2 })) ∧
    (s.writeReg .rmxLevelMask v = .next { s with intc := { c with rMask := v.extractLsb' 0 3 } } ∧
      (s.readReg .rmxLevelMask).1.toNat = c.rMask.toNat) ∧
    (∃ t, s.writeReg .rmxVector v = .next t ∧ t = { s with intc := { c with ivr := t.intc.ivr } } ∧
      t.intc.ivr.toNat = v.toNat % 256 / 8 * 8 ∧ (t.readReg .rmxVector).1.toNat = v.toNat % 256 / 8 * 8) ∧
    (∀ r, r ∈ [BlockReg.rmxService, .rmxMask, .rmxRequest, .rmxLevelMask, .rmxVector] → (s.readReg r).2 = s) ∧
    (∀ k, (s.readReg (.rmxCtrl k)).2 = s)

/-! ### DMA, timers, chip selects -/

/-- One transfer, of a byte or a word, from memory or a port to memory or a port: the element is copied, the pointers
move by 1 or 2 as INC and DEC say, modulo 2^20, the count drops by 1, and nothing of the CPU changes; at count 0 the
channel stops, and asks for its interrupt if INT = 1, when TC = 1 or it is unsynchronized (R561, R564, R565, D4, D33).
The channel's latch keeps the element (R560; log 41), and it has then run and gone last (R566), a
destination-synchronized one leaves the bus to the CPU (R562; log 22), and a transfer that timer 2 asked for serves
one of its requests (R589; log 23). That a port without data answers a free byte, and that a word at an odd port,
which is two byte cycles (R561), is one entry of the record of port writes, is log 6. -/
def Obligations.DmaTransferResults : Prop :=
  ∀ (s : State) (c : Channel),
    let d := s.chan c
    let w : Width := if d.ctrl.getLsbD 0 then .word else .byte
    let n : Addr := if d.ctrl.getLsbD 0 then 2 else 1
    let v := dmaValue s (d.ctrl.getLsbD 12) w d.src
    let u := dmaStored v.2 (d.ctrl.getLsbD 15) w d.dst v.1
    s.uncut = true → d.ctrl.extractLsb' 6 2 ≠ 3#2 → dmaPlain s (d.ctrl.getLsbD 12) w d.src = true →
    dmaPlain s (d.ctrl.getLsbD 15) w d.dst = true →
    ∃ t, dmaTransfer c s = .next t ∧
      t.mem = u.mem ∧ t.portLog = u.portLog ∧ t.free = u.free ∧
      (s.mem.wf = true → d.ctrl.getLsbD 0 = false → d.ctrl.getLsbD 12 = true → d.ctrl.getLsbD 15 = true →
        t.loadByte d.dst = s.loadByte d.src ∧ ∀ a, a ≠ d.dst → t.loadByte a = s.loadByte a) ∧
      (s.mem.wf = true → d.ctrl.getLsbD 0 = true → d.ctrl.getLsbD 12 = true → d.ctrl.getLsbD 15 = true →
        t.loadWord d.dst = s.loadWord d.src ∧ ∀ a, a ≠ d.dst → a ≠ d.dst + 1 → t.loadByte a = s.loadByte a) ∧
      (t.chan c).src = (if d.ctrl.getLsbD 10 = d.ctrl.getLsbD 11 then d.src
        else if d.ctrl.getLsbD 10 then d.src + n else d.src - n) ∧
      (t.chan c).dst = (if d.ctrl.getLsbD 13 = d.ctrl.getLsbD 14 then d.dst
        else if d.ctrl.getLsbD 13 then d.dst + n else d.dst - n) ∧
      (t.chan c).count = d.count - 1 ∧
      (let stops := decide (d.count = 1) && (d.ctrl.getLsbD 9 || decide (d.ctrl.extractLsb' 6 2 = 0#2))
       (t.chan c).ctrl = (if stops then d.ctrl &&& 0xFFFD#16 else d.ctrl) ∧
       t.intc = (match c with
         | .c0 => { s.intc with irD0 := s.intc.irD0 || (stops && d.ctrl.getLsbD 8) }
         | .c1 => { s.intc with irD1 := s.intc.irD1 || (stops && d.ctrl.getLsbD 8) })) ∧
      (t.chan c).latch = v.1.setWidth 16 ∧ (t.chan c).ran = true ∧
      (t.chan c).tmrReqs =
        (if d.ctrl.extractLsb' 6 2 ≠ 0#2 ∧ d.ctrl.getLsbD 4 = true ∧ s.drq c = false then d.tmrReqs - 1
        else d.tmrReqs) ∧
      t.dma = { ch0 := t.dma.ch0, ch1 := t.dma.ch1, last := c, yielded := decide (d.ctrl.extractLsb' 6 2 = 2#2) } ∧
      t.chan c.other = s.chan c.other ∧
      t.regs = s.regs ∧ t.segs = s.segs ∧ t.flags = s.flags ∧ t.ip = s.ip

/-- When a channel's turn transfers (R152, R562, R566, R567, R568). It does not with ST = 0, with DHLT = 1, inside a
locked instruction, while an external master has the bus, or synchronized with neither its DRQ pin HIGH nor a request
of timer 2 that TDRQ lets through; of two ready channels not the one of lower priority, and of equal ones, both having
run, not the one that went last. Where none of these holds it does; of equal channels one of which has not run yet,
either may go (log 22). After NMI DHLT is 1, so that no channel goes (R475). That requests of timer 2 are counted
until they are served is log 23. -/
def Obligations.DmaGoesInItsTurn : Prop :=
  ∀ (s : State) (c : Channel),
    let d := s.chan c
    let e := s.chan c.other
    let asks := s.drq c || (d.ctrl.getLsbD 4 && decide (d.tmrReqs ≠ 0))
    (d.ctrl.getLsbD 1 = false ∨ s.intc.dhlt = true ∨ s.locked = true ∨ s.granted = true ∨
        ((d.ctrl.extractLsb' 6 2 = 1#2 ∨ d.ctrl.extractLsb' 6 2 = 2#2) ∧ asks = false) ∨
        (s.dmaReady c.other = true ∧ d.ctrl.getLsbD 5 = false ∧ e.ctrl.getLsbD 5 = true) ∨
        (s.dmaReady c.other = true ∧ d.ctrl.getLsbD 5 = e.ctrl.getLsbD 5 ∧
          s.dma.ch0.ran = true ∧ s.dma.ch1.ran = true ∧ s.dma.last = c) →
      dmaTurn c s = .next s) ∧
    (d.ctrl.getLsbD 1 = true → s.intc.dhlt = false → s.locked = false → s.granted = false →
      (d.ctrl.extractLsb' 6 2 = 0#2 ∨ asks = true) →
      (s.dmaReady c.other = false ∨ (d.ctrl.getLsbD 5 = true ∧ e.ctrl.getLsbD 5 = false) ∨
        (d.ctrl.getLsbD 5 = e.ctrl.getLsbD 5 ∧
          (s.dma.last = c.other ∨ s.dma.ch0.ran = false ∨ s.dma.ch1.ran = false))) →
      dmaTurn c s = dmaTransfer c s) ∧
    (s.drq .c0 = s.pins.drq0 ∧ s.drq .c1 = s.pins.drq1) ∧
    (s.undisturbed = true → s.pfx.lock = false → plainVector s 2 = true → roomFor s 3 = true →
      ∃ t, takeNmi s = .next t ∧ t.intc.dhlt = true ∧ t.nmiLatch = false ∧ dmaTurn c t = .next t)

/-- One count event of a timer: the count goes up by 1; where that equals the maximum in use it becomes 0 and MC is
set, with ALT = 1 the other maximum comes into use, and with CONT = 0 the timer stops, after both maxima if ALT = 1
(R585). The mode word: EN is written only with INH = 1, RIU never but that ALT = 0 clears it, and timer 2's ALT, EXT,
P and RTG stay 0 (R91, R586, R589), and it reads each bit at its place, INH and the undescribed bits as 0 (log 37 for
these; the places are general knowledge of the part, log 26); count and maxima are read and written whole (R89, R90).
A service slot: a rise of the input restarts an internally clocked retriggered timer at 0; else the timer counts if it
is enabled and has a count event, which is every slot for timer 2, an input rise with EXT = 1, and else the slot
itself or timer 2's maximum count with P = 1, gated by the input level or by the first trigger (R582 to R584); else it
holds. A maximum count sets IRTk if INT = 1, and timer 2's clocks the prescaled timers and asks the DMA channels with
TDRQ = 1 (R491, R584, R589). What waits for a slot is log 24, and that the requests are counted log 23. -/
def Obligations.TimerCountAndMode : Prop :=
  (∀ (t : Timer) (k : TimerId),
    (let max := if t.riu then t.maxB else t.maxA
     (t.count + 1 ≠ max → t.advance = { t with count := t.count + 1 }) ∧
     (t.count + 1 = max →
       t.advance.count = 0 ∧ t.advance.mc = true ∧ t.advance.riu = (t.alt && !t.riu) ∧
       t.advance.en = (t.en && (t.cont || (t.alt && !t.riu))) ∧
       t.advance.maxA = t.maxA ∧ t.advance.maxB = t.maxB)) ∧
    (∀ v : Word,
      let u := t.writeMode k v
      u.en = (if v.getLsbD 14 then v.getLsbD 15 else t.en) ∧
      (u.alt = false → u.riu = false) ∧ (u.alt = true → u.riu = t.riu) ∧
      u.int = v.getLsbD 13 ∧ u.mc = v.getLsbD 5 ∧ u.cont = v.getLsbD 0 ∧
      u.count = t.count ∧ u.maxA = t.maxA ∧ u.maxB = t.maxB ∧
      (k = .t2 → u.alt = false ∧ u.ext = false ∧ u.p = false ∧ u.rtg = false) ∧
      (k ≠ .t2 → u.alt = v.getLsbD 1 ∧ u.ext = v.getLsbD 2 ∧ u.p = v.getLsbD 3 ∧ u.rtg = v.getLsbD 4))) ∧
  (∀ (s : State) (k : TimerId) (v : Word),
    let t := s.timers.get k
    let mode := (s.readReg (.tmrMode k)).1
    s.readReg (.tmrCount k) = (t.count, s) ∧ s.readReg (.tmrMaxA k) = (t.maxA, s) ∧
    s.readReg (.tmrMaxB k) = (t.maxB, s) ∧ (s.readReg (.tmrMode k)).2 = s ∧
    s.writeReg (.tmrCount k) v = .next (s.setTimer k { t with count := v }) ∧
    s.writeReg (.tmrMaxA k) v = .next (s.setTimer k { t with maxA := v }) ∧
    s.writeReg (.tmrMaxB k) v = .next (s.setTimer k { t with maxB := v }) ∧
    s.writeReg (.tmrMode k) v = .next (s.setTimer k (t.writeMode k v)) ∧
    mode.getLsbD 15 = t.en ∧ mode.getLsbD 14 = false ∧ mode.getLsbD 13 = t.int ∧ mode.getLsbD 12 = t.riu ∧
    (∀ i, 6 ≤ i → i ≤ 11 → mode.getLsbD i = false) ∧ mode.getLsbD 5 = t.mc ∧ mode.getLsbD 4 = t.rtg ∧
    mode.getLsbD 3 = t.p ∧ mode.getLsbD 2 = t.ext ∧ mode.getLsbD 1 = t.alt ∧ mode.getLsbD 0 = t.cont) ∧
  (∀ (s : State) (k : TimerId),
    let t := s.timers.get k
    let pin := match k with
      | .t0 => s.pins.tmrIn0
      | .t1 => s.pins.tmrIn1
      | .t2 => false
    let restart := decide (k ≠ .t2) && t.en && !t.ext && t.rtg && t.edge
    let event := t.en && (decide (k = .t2) || (t.ext && t.edge) ||
      (!t.ext && (!t.p || t.tick) && (if t.rtg then t.triggered else pin)))
    let top := decide (t.count + 1 = if t.riu then t.maxB else t.maxA)
    let u := s.timerSlot k
    (∀ rest, s.agenda = .world (.slot k) :: rest → step s = .next ((s.setAgenda rest).timerSlot k)) ∧
    (restart = true → u = s.setTimer k { t with count := 0, triggered := true, edge := false, tick := false }) ∧
    (restart = false → event = false → u = s.setTimer k { t with edge := false, tick := false }) ∧
    (restart = false → event = true → top = false →
      u = s.setTimer k { t with count := t.count + 1, edge := false, tick := false }) ∧
    (restart = false → event = true → top = true →
      u = { s with timers := u.timers, intc := u.intc, dma := u.dma } ∧
      u.timers.get k = { t.advance with edge := false, tick := false } ∧
      u.intc = { s.intc with
        irt0 := s.intc.irt0 || (decide (k = .t0) && t.int), irt1 := s.intc.irt1 || (decide (k = .t1) && t.int)
        irt2 := s.intc.irt2 || (decide (k = .t2) && t.int) } ∧
      (k ≠ .t2 → u.dma = s.dma ∧ ∀ j, j ≠ k → u.timers.get j = s.timers.get j) ∧
      (k = .t2 → u.timers.t0 = { s.timers.t0 with tick := true } ∧ u.timers.t1 = { s.timers.t1 with tick := true } ∧
        (∀ c, u.chan c = { s.chan c with
          tmrReqs := (s.chan c).tmrReqs + (if (s.chan c).ctrl.getLsbD 4 then 1 else 0) }) ∧
        u.dma = { s.dma with ch0 := u.dma.ch0, ch1 := u.dma.ch1 })))

/-- The chip selects, where no enabled ranges have an address in common. UCS selects from the starting address of
Table 7 up, and LCS, once LMCS is accessed, up to the limit of Table 8; each MCS line one quarter of a mid-range block
of Table 9 at a multiple of its size, at 0 for 512K; each PCS line 128 bytes of the space MS names, once MMCS or PACS
and MPCS are accessed (R541 to R546, R550). With EX = 0 the last two PCS pins carry A1 and A2. Overlapping ranges have
no specified output (U23, log 16). The READY mode of each block is in its register, of PCS0 to PCS3 in PACS, of PCS4
to PCS6 in MPCS (R71). Each register reads what was written, the undescribed bits of PACS, MMCS and MPCS as 1 (R66 to
R70, log 26); that a value the spec has no legal meaning for, outside Tables 7 to 9 or for a block it does not allow,
is stored too, where U7, U10 and U23 refuse the write, is log 16; a write, and no read, counts as its first access,
before which this says of no read what it answers (R72, D24). -/
def Obligations.ChipSelectOutputs : Prop :=
  ∀ (c : ChipSel) (a : Addr),
    (∀ (v : Word) (first : Nat),
      (v, first) ∈ [(0xFFF8#16, 0xFFC00), (0xFFB8#16, 0xFF800), (0xFF38#16, 0xFF000), (0xFE38#16, 0xFE000),
        (0xFC38#16, 0xFC000), (0xF838#16, 0xF8000), (0xF038#16, 0xF0000), (0xE038#16, 0xE0000),
        (0xC038#16, 0xC0000)] →
      c.umcs &&& 0xFFF8#16 = v → c.overlapped .upper = false → c.ucs a = some (decide (first ≤ a.toNat))) ∧
    State.reset.chip.ucs a = some (decide (0xFFC00 ≤ a.toNat)) ∧
    (c.lmcsOn = false → c.lcs a = some false) ∧
    (∀ (v : Word) (last : Nat),
      (v, last) ∈ [(0x0038#16, 0x003FF), (0x0078#16, 0x007FF), (0x00F8#16, 0x00FFF), (0x01F8#16, 0x01FFF),
        (0x03F8#16, 0x03FFF), (0x07F8#16, 0x07FFF), (0x0FF8#16, 0x0FFFF), (0x1FF8#16, 0x1FFFF),
        (0x3FF8#16, 0x3FFFF)] →
      c.lmcs &&& 0xFFF8#16 = v → c.lmcsOn = true → c.overlapped .lower = false →
      c.lcs a = some (decide (a.toNat ≤ last))) ∧
    (∀ k, c.mmcsOn = false ∨ c.mpcsOn = false → c.mcs k a = some false) ∧
    (∀ (k : Fin 4) (m : BitVec 7) (size : Nat),
      (m, size) ∈ [(1#7, 0x2000), (2#7, 0x4000), (4#7, 0x8000), (8#7, 0x10000), (16#7, 0x20000), (32#7, 0x40000),
        (64#7, 0x80000)] →
      c.mpcs.extractLsb' 8 7 = m → c.mmcsOn = true → c.mpcsOn = true →
      let base := c.mmcs.toNat / 512 * 0x2000
      base % size = 0 → (size = 0x80000 → base = 0) → c.overlapped .mid = false →
      c.mcs k a =
        some (decide (base + k.val * size / 4 ≤ a.toNat ∧ a.toNat < base + (k.val + 1) * size / 4))) ∧
    (∀ k io x, c.pacsOn = false ∨ c.mpcsOn = false →
      c.pcs k io x = some false ∧ ∀ second, c.latchedAddress second a = none) ∧
    (∀ (k : Fin 7) (io : Bool) (x : Nat), c.pacsOn = true → c.mpcsOn = true →
      (k.val < 5 ∨ c.mpcs.getLsbD 7 = true) → (c.mpcs.getLsbD 6 = true ∨ c.pacs.toNat < 0x1000) →
      c.overlapped .periph = false →
      let pba := c.pacs.toNat / 64 * 1024
      c.pcs k io x =
        some (decide (io = !c.mpcs.getLsbD 6 ∧ pba + 128 * k.val ≤ x ∧ x ≤ pba + 128 * k.val + 127))) ∧
    (c.pacsOn = true → c.mpcsOn = true → c.mpcs.getLsbD 7 = false →
      c.latchedAddress false a = some (a.getLsbD 1) ∧ c.latchedAddress true a = some (a.getLsbD 2)) ∧
    (∀ k, c.overlapped k = true ↔
      ∃ j r q x, j ≠ k ∧ c.span k = some r ∧ c.span j = some q ∧ r.first ≤ x ∧ x < r.past ∧ q.first ≤ x ∧
        x < q.past) ∧
    (c.overlapped .upper = true → c.ucs a = none) ∧
    (let mode := fun (v : Word) => (v.toNat % 4, v.getLsbD 2)
     c.readyFor .ucs = mode c.umcs ∧ c.readyFor .lcs = mode c.lmcs ∧ (∀ k, c.readyFor (.mcs k) = mode c.mmcs) ∧
     ∀ k : Fin 7, c.readyFor (.pcs k) = mode (if k.val < 4 then c.pacs else c.mpcs)) ∧
    (∀ (s : State) (v : Word), s.chip = c →
      s.writeReg .umcs v = .next { s with chip := { c with umcs := v } } ∧
      s.writeReg .lmcs v = .next { s with chip := { c with lmcs := v, lmcsOn := true } } ∧
      s.writeReg .pacs v = .next { s with chip := { c with pacs := v ||| 0x0038#16, pacsOn := true } } ∧
      s.writeReg .mmcs v = .next { s with chip := { c with mmcs := v ||| 0x01F8#16, mmcsOn := true } } ∧
      s.writeReg .mpcs v = .next { s with chip := { c with mpcs := v ||| 0x8038#16, mpcsOn := true } } ∧
      s.readReg .umcs = (c.umcs, s) ∧ (c.lmcsOn = true → s.readReg .lmcs = (c.lmcs, s)) ∧
      (c.pacsOn = true → s.readReg .pacs = (c.pacs, s)) ∧ (c.mmcsOn = true → s.readReg .mmcs = (c.mmcs, s)) ∧
      (c.mpcsOn = true → s.readReg .mpcs = (c.mpcs, s)) ∧
      ∀ r, r ∈ [BlockReg.lmcs, .pacs, .mmcs, .mpcs] → (s.readReg r).2 = s)

end
end

