-- ==== Sys2Proof/Laws/Decode.lean ====
section
/-! SUPPORT. The fields of an encoding read back: registers, r/m operands, 16-bit fields. -/

namespace Sys2Proof

theorem Reg.ofBits_bits (r : Reg) : Reg.ofBits r.bits = r := by cases r <;> rfl

theorem Base.ofBits_bits (b : Base) : Base.ofBits b.bits = b := by cases b <;> rfl

/-- The second byte taken apart gives the fields it was built from (R175). -/
theorem ModRM.ofByte_modRM (m : BitVec 2) (r b : BitVec 3) :
    ModRM.ofByte (modRM m r b) = { mod1 := m.getLsbD 1, mod0 := m.getLsbD 0, reg := r, rm := b } := by
  revert m r b; decide

/-- A 16-bit field written low byte first reads back (R136). -/
theorem wordOfBytes_low_high (v : Word) : wordOfBytes v.low v.high = v := by
  unfold wordOfBytes Word.high Word.low; ext i h
  simp; grind

/-- A memory operand's bytes read back, whatever follows them (R176). -/
theorem dRM_encMem (b : BitVec 3) (m : MemRef) (h : m.wf = true) (rest : List Byte) :
    ∃ c tl, encMem b m ++ rest = c :: tl ∧ (ModRM.ofByte c).reg = b ∧
      ∀ k, dRM (ModRM.ofByte c) tl k = k (.mem m) (1 + (encMem b m).length) rest := by
  cases m with
  | plain x =>
    refine ⟨_, _, rfl, by rw [ModRM.ofByte_modRM], fun k => ?_⟩
    rw [ModRM.ofByte_modRM]
    have hx : x.bits ≠ 0b110#3 := by cases x <;> simp_all [MemRef.wf, Base.bits]
    simp only [dRM, BitVec.getLsbD_zero]
    rw [if_neg hx, Base.ofBits_bits]
    rfl
  | direct d =>
    refine ⟨_, _, rfl, by rw [ModRM.ofByte_modRM], fun k => ?_⟩
    rw [ModRM.ofByte_modRM]
    simp [dRM, encWord, encMem, wordOfBytes_low_high]
  | disp8 x d =>
    refine ⟨_, _, rfl, by rw [ModRM.ofByte_modRM], fun k => ?_⟩
    rw [ModRM.ofByte_modRM]
    simp [dRM, encMem, Base.ofBits_bits]
  | disp16 x d =>
    refine ⟨_, _, rfl, by rw [ModRM.ofByte_modRM], fun k => ?_⟩
    rw [ModRM.ofByte_modRM]
    simp [dRM, encWord, encMem, Base.ofBits_bits, wordOfBytes_low_high]

/-- An r/m operand's bytes read back, whatever follows them (R175, R176). -/
theorem dRM_encRM (b : BitVec 3) (rm : RM) (h : rm.wf = true) (rest : List Byte) :
    ∃ c tl, encRM b rm ++ rest = c :: tl ∧ (ModRM.ofByte c).reg = b ∧
      ∀ k, dRM (ModRM.ofByte c) tl k = k rm (1 + (encRM b rm).length) rest := by
  cases rm with
  | mem m => exact dRM_encMem b m h rest
  | reg r =>
    refine ⟨_, _, rfl, by rw [ModRM.ofByte_modRM], fun k => ?_⟩
    rw [ModRM.ofByte_modRM]
    simp [dRM, encRM, Reg.ofBits_bits]

end Sys2Proof
end

