-- ==== Sys2Proof/Laws/State.lean ====
section
/-! SUPPORT. One lemma per field per update of the state, so that no proof unfolds a record update. -/

namespace Sys2Proof.Machine

variable (s : State)

/-! ### setSp -/

@[simp] theorem State.setSp_regs (v : Word) : (s.setSp v).regs = { s.regs with sp := v } := rfl
@[simp] theorem State.setSp_segs (v : Word) : (s.setSp v).segs = s.segs := rfl
@[simp] theorem State.setSp_ip (v : Word) : (s.setSp v).ip = s.ip := rfl
@[simp] theorem State.setSp_flags (v : Word) : (s.setSp v).flags = s.flags := rfl
@[simp] theorem State.setSp_ipStart (v : Word) : (s.setSp v).ipStart = s.ipStart := rfl
@[simp] theorem State.setSp_pfx (v : Word) : (s.setSp v).pfx = s.pfx := rfl
@[simp] theorem State.setSp_activity (v : Word) : (s.setSp v).activity = s.activity := rfl
@[simp] theorem State.setSp_inhibit (v : Word) : (s.setSp v).inhibit = s.inhibit := rfl
@[simp] theorem State.setSp_inhibitInt (v : Word) : (s.setSp v).inhibitInt = s.inhibitInt := rfl
@[simp] theorem State.setSp_nmiLatch (v : Word) : (s.setSp v).nmiLatch = s.nmiLatch := rfl
@[simp] theorem State.setSp_due (v : Word) : (s.setSp v).due = s.due := rfl
@[simp] theorem State.setSp_mem (v : Word) : (s.setSp v).mem = s.mem := rfl
@[simp] theorem State.setSp_memMap (v : Word) : (s.setSp v).memMap = s.memMap := rfl
@[simp] theorem State.setSp_ioMap (v : Word) : (s.setSp v).ioMap = s.ioMap := rfl
@[simp] theorem State.setSp_memDevices (v : Word) : (s.setSp v).memDevices = s.memDevices := rfl
@[simp] theorem State.setSp_memLog (v : Word) : (s.setSp v).memLog = s.memLog := rfl
@[simp] theorem State.setSp_ports (v : Word) : (s.setSp v).ports = s.ports := rfl
@[simp] theorem State.setSp_portLog (v : Word) : (s.setSp v).portLog = s.portLog := rfl
@[simp] theorem State.setSp_pins (v : Word) : (s.setSp v).pins = s.pins := rfl
@[simp] theorem State.setSp_intaByte (v : Word) : (s.setSp v).intaByte = s.intaByte := rfl
@[simp] theorem State.setSp_acks (v : Word) : (s.setSp v).acks = s.acks := rfl
@[simp] theorem State.setSp_stale (v : Word) : (s.setSp v).stale = s.stale := rfl
@[simp] theorem State.setSp_reloc (v : Word) : (s.setSp v).reloc = s.reloc := rfl
@[simp] theorem State.setSp_chip (v : Word) : (s.setSp v).chip = s.chip := rfl
@[simp] theorem State.setSp_dma (v : Word) : (s.setSp v).dma = s.dma := rfl
@[simp] theorem State.setSp_timers (v : Word) : (s.setSp v).timers = s.timers := rfl
@[simp] theorem State.setSp_intc (v : Word) : (s.setSp v).intc = s.intc := rfl
@[simp] theorem State.setSp_agenda (v : Word) : (s.setSp v).agenda = s.agenda := rfl
@[simp] theorem State.setSp_free (v : Word) : (s.setSp v).free = s.free := rfl

/-! ### setBp -/

@[simp] theorem State.setBp_regs (v : Word) : (s.setBp v).regs = { s.regs with bp := v } := rfl
@[simp] theorem State.setBp_segs (v : Word) : (s.setBp v).segs = s.segs := rfl
@[simp] theorem State.setBp_ip (v : Word) : (s.setBp v).ip = s.ip := rfl
@[simp] theorem State.setBp_flags (v : Word) : (s.setBp v).flags = s.flags := rfl
@[simp] theorem State.setBp_ipStart (v : Word) : (s.setBp v).ipStart = s.ipStart := rfl
@[simp] theorem State.setBp_pfx (v : Word) : (s.setBp v).pfx = s.pfx := rfl
@[simp] theorem State.setBp_activity (v : Word) : (s.setBp v).activity = s.activity := rfl
@[simp] theorem State.setBp_inhibit (v : Word) : (s.setBp v).inhibit = s.inhibit := rfl
@[simp] theorem State.setBp_inhibitInt (v : Word) : (s.setBp v).inhibitInt = s.inhibitInt := rfl
@[simp] theorem State.setBp_nmiLatch (v : Word) : (s.setBp v).nmiLatch = s.nmiLatch := rfl
@[simp] theorem State.setBp_due (v : Word) : (s.setBp v).due = s.due := rfl
@[simp] theorem State.setBp_mem (v : Word) : (s.setBp v).mem = s.mem := rfl
@[simp] theorem State.setBp_memMap (v : Word) : (s.setBp v).memMap = s.memMap := rfl
@[simp] theorem State.setBp_ioMap (v : Word) : (s.setBp v).ioMap = s.ioMap := rfl
@[simp] theorem State.setBp_memDevices (v : Word) : (s.setBp v).memDevices = s.memDevices := rfl
@[simp] theorem State.setBp_memLog (v : Word) : (s.setBp v).memLog = s.memLog := rfl
@[simp] theorem State.setBp_ports (v : Word) : (s.setBp v).ports = s.ports := rfl
@[simp] theorem State.setBp_portLog (v : Word) : (s.setBp v).portLog = s.portLog := rfl
@[simp] theorem State.setBp_pins (v : Word) : (s.setBp v).pins = s.pins := rfl
@[simp] theorem State.setBp_intaByte (v : Word) : (s.setBp v).intaByte = s.intaByte := rfl
@[simp] theorem State.setBp_acks (v : Word) : (s.setBp v).acks = s.acks := rfl
@[simp] theorem State.setBp_stale (v : Word) : (s.setBp v).stale = s.stale := rfl
@[simp] theorem State.setBp_reloc (v : Word) : (s.setBp v).reloc = s.reloc := rfl
@[simp] theorem State.setBp_chip (v : Word) : (s.setBp v).chip = s.chip := rfl
@[simp] theorem State.setBp_dma (v : Word) : (s.setBp v).dma = s.dma := rfl
@[simp] theorem State.setBp_timers (v : Word) : (s.setBp v).timers = s.timers := rfl
@[simp] theorem State.setBp_intc (v : Word) : (s.setBp v).intc = s.intc := rfl
@[simp] theorem State.setBp_agenda (v : Word) : (s.setBp v).agenda = s.agenda := rfl
@[simp] theorem State.setBp_free (v : Word) : (s.setBp v).free = s.free := rfl

/-! ### setCx -/

@[simp] theorem State.setCx_regs (v : Word) : (s.setCx v).regs = { s.regs with cx := v } := rfl
@[simp] theorem State.setCx_segs (v : Word) : (s.setCx v).segs = s.segs := rfl
@[simp] theorem State.setCx_ip (v : Word) : (s.setCx v).ip = s.ip := rfl
@[simp] theorem State.setCx_flags (v : Word) : (s.setCx v).flags = s.flags := rfl
@[simp] theorem State.setCx_ipStart (v : Word) : (s.setCx v).ipStart = s.ipStart := rfl
@[simp] theorem State.setCx_pfx (v : Word) : (s.setCx v).pfx = s.pfx := rfl
@[simp] theorem State.setCx_activity (v : Word) : (s.setCx v).activity = s.activity := rfl
@[simp] theorem State.setCx_inhibit (v : Word) : (s.setCx v).inhibit = s.inhibit := rfl
@[simp] theorem State.setCx_inhibitInt (v : Word) : (s.setCx v).inhibitInt = s.inhibitInt := rfl
@[simp] theorem State.setCx_nmiLatch (v : Word) : (s.setCx v).nmiLatch = s.nmiLatch := rfl
@[simp] theorem State.setCx_due (v : Word) : (s.setCx v).due = s.due := rfl
@[simp] theorem State.setCx_mem (v : Word) : (s.setCx v).mem = s.mem := rfl
@[simp] theorem State.setCx_memMap (v : Word) : (s.setCx v).memMap = s.memMap := rfl
@[simp] theorem State.setCx_ioMap (v : Word) : (s.setCx v).ioMap = s.ioMap := rfl
@[simp] theorem State.setCx_memDevices (v : Word) : (s.setCx v).memDevices = s.memDevices := rfl
@[simp] theorem State.setCx_memLog (v : Word) : (s.setCx v).memLog = s.memLog := rfl
@[simp] theorem State.setCx_ports (v : Word) : (s.setCx v).ports = s.ports := rfl
@[simp] theorem State.setCx_portLog (v : Word) : (s.setCx v).portLog = s.portLog := rfl
@[simp] theorem State.setCx_pins (v : Word) : (s.setCx v).pins = s.pins := rfl
@[simp] theorem State.setCx_intaByte (v : Word) : (s.setCx v).intaByte = s.intaByte := rfl
@[simp] theorem State.setCx_acks (v : Word) : (s.setCx v).acks = s.acks := rfl
@[simp] theorem State.setCx_stale (v : Word) : (s.setCx v).stale = s.stale := rfl
@[simp] theorem State.setCx_reloc (v : Word) : (s.setCx v).reloc = s.reloc := rfl
@[simp] theorem State.setCx_chip (v : Word) : (s.setCx v).chip = s.chip := rfl
@[simp] theorem State.setCx_dma (v : Word) : (s.setCx v).dma = s.dma := rfl
@[simp] theorem State.setCx_timers (v : Word) : (s.setCx v).timers = s.timers := rfl
@[simp] theorem State.setCx_intc (v : Word) : (s.setCx v).intc = s.intc := rfl
@[simp] theorem State.setCx_agenda (v : Word) : (s.setCx v).agenda = s.agenda := rfl
@[simp] theorem State.setCx_free (v : Word) : (s.setCx v).free = s.free := rfl

/-! ### setSi -/

@[simp] theorem State.setSi_regs (v : Word) : (s.setSi v).regs = { s.regs with si := v } := rfl
@[simp] theorem State.setSi_segs (v : Word) : (s.setSi v).segs = s.segs := rfl
@[simp] theorem State.setSi_ip (v : Word) : (s.setSi v).ip = s.ip := rfl
@[simp] theorem State.setSi_flags (v : Word) : (s.setSi v).flags = s.flags := rfl
@[simp] theorem State.setSi_ipStart (v : Word) : (s.setSi v).ipStart = s.ipStart := rfl
@[simp] theorem State.setSi_pfx (v : Word) : (s.setSi v).pfx = s.pfx := rfl
@[simp] theorem State.setSi_activity (v : Word) : (s.setSi v).activity = s.activity := rfl
@[simp] theorem State.setSi_inhibit (v : Word) : (s.setSi v).inhibit = s.inhibit := rfl
@[simp] theorem State.setSi_inhibitInt (v : Word) : (s.setSi v).inhibitInt = s.inhibitInt := rfl
@[simp] theorem State.setSi_nmiLatch (v : Word) : (s.setSi v).nmiLatch = s.nmiLatch := rfl
@[simp] theorem State.setSi_due (v : Word) : (s.setSi v).due = s.due := rfl
@[simp] theorem State.setSi_mem (v : Word) : (s.setSi v).mem = s.mem := rfl
@[simp] theorem State.setSi_memMap (v : Word) : (s.setSi v).memMap = s.memMap := rfl
@[simp] theorem State.setSi_ioMap (v : Word) : (s.setSi v).ioMap = s.ioMap := rfl
@[simp] theorem State.setSi_memDevices (v : Word) : (s.setSi v).memDevices = s.memDevices := rfl
@[simp] theorem State.setSi_memLog (v : Word) : (s.setSi v).memLog = s.memLog := rfl
@[simp] theorem State.setSi_ports (v : Word) : (s.setSi v).ports = s.ports := rfl
@[simp] theorem State.setSi_portLog (v : Word) : (s.setSi v).portLog = s.portLog := rfl
@[simp] theorem State.setSi_pins (v : Word) : (s.setSi v).pins = s.pins := rfl
@[simp] theorem State.setSi_intaByte (v : Word) : (s.setSi v).intaByte = s.intaByte := rfl
@[simp] theorem State.setSi_acks (v : Word) : (s.setSi v).acks = s.acks := rfl
@[simp] theorem State.setSi_stale (v : Word) : (s.setSi v).stale = s.stale := rfl
@[simp] theorem State.setSi_reloc (v : Word) : (s.setSi v).reloc = s.reloc := rfl
@[simp] theorem State.setSi_chip (v : Word) : (s.setSi v).chip = s.chip := rfl
@[simp] theorem State.setSi_dma (v : Word) : (s.setSi v).dma = s.dma := rfl
@[simp] theorem State.setSi_timers (v : Word) : (s.setSi v).timers = s.timers := rfl
@[simp] theorem State.setSi_intc (v : Word) : (s.setSi v).intc = s.intc := rfl
@[simp] theorem State.setSi_agenda (v : Word) : (s.setSi v).agenda = s.agenda := rfl
@[simp] theorem State.setSi_free (v : Word) : (s.setSi v).free = s.free := rfl

/-! ### setDi -/

@[simp] theorem State.setDi_regs (v : Word) : (s.setDi v).regs = { s.regs with di := v } := rfl
@[simp] theorem State.setDi_segs (v : Word) : (s.setDi v).segs = s.segs := rfl
@[simp] theorem State.setDi_ip (v : Word) : (s.setDi v).ip = s.ip := rfl
@[simp] theorem State.setDi_flags (v : Word) : (s.setDi v).flags = s.flags := rfl
@[simp] theorem State.setDi_ipStart (v : Word) : (s.setDi v).ipStart = s.ipStart := rfl
@[simp] theorem State.setDi_pfx (v : Word) : (s.setDi v).pfx = s.pfx := rfl
@[simp] theorem State.setDi_activity (v : Word) : (s.setDi v).activity = s.activity := rfl
@[simp] theorem State.setDi_inhibit (v : Word) : (s.setDi v).inhibit = s.inhibit := rfl
@[simp] theorem State.setDi_inhibitInt (v : Word) : (s.setDi v).inhibitInt = s.inhibitInt := rfl
@[simp] theorem State.setDi_nmiLatch (v : Word) : (s.setDi v).nmiLatch = s.nmiLatch := rfl
@[simp] theorem State.setDi_due (v : Word) : (s.setDi v).due = s.due := rfl
@[simp] theorem State.setDi_mem (v : Word) : (s.setDi v).mem = s.mem := rfl
@[simp] theorem State.setDi_memMap (v : Word) : (s.setDi v).memMap = s.memMap := rfl
@[simp] theorem State.setDi_ioMap (v : Word) : (s.setDi v).ioMap = s.ioMap := rfl
@[simp] theorem State.setDi_memDevices (v : Word) : (s.setDi v).memDevices = s.memDevices := rfl
@[simp] theorem State.setDi_memLog (v : Word) : (s.setDi v).memLog = s.memLog := rfl
@[simp] theorem State.setDi_ports (v : Word) : (s.setDi v).ports = s.ports := rfl
@[simp] theorem State.setDi_portLog (v : Word) : (s.setDi v).portLog = s.portLog := rfl
@[simp] theorem State.setDi_pins (v : Word) : (s.setDi v).pins = s.pins := rfl
@[simp] theorem State.setDi_intaByte (v : Word) : (s.setDi v).intaByte = s.intaByte := rfl
@[simp] theorem State.setDi_acks (v : Word) : (s.setDi v).acks = s.acks := rfl
@[simp] theorem State.setDi_stale (v : Word) : (s.setDi v).stale = s.stale := rfl
@[simp] theorem State.setDi_reloc (v : Word) : (s.setDi v).reloc = s.reloc := rfl
@[simp] theorem State.setDi_chip (v : Word) : (s.setDi v).chip = s.chip := rfl
@[simp] theorem State.setDi_dma (v : Word) : (s.setDi v).dma = s.dma := rfl
@[simp] theorem State.setDi_timers (v : Word) : (s.setDi v).timers = s.timers := rfl
@[simp] theorem State.setDi_intc (v : Word) : (s.setDi v).intc = s.intc := rfl
@[simp] theorem State.setDi_agenda (v : Word) : (s.setDi v).agenda = s.agenda := rfl
@[simp] theorem State.setDi_free (v : Word) : (s.setDi v).free = s.free := rfl

/-! ### setCs -/

@[simp] theorem State.setCs_regs (v : Word) : (s.setCs v).regs = s.regs := rfl
@[simp] theorem State.setCs_segs (v : Word) : (s.setCs v).segs = { s.segs with cs := v } := rfl
@[simp] theorem State.setCs_ip (v : Word) : (s.setCs v).ip = s.ip := rfl
@[simp] theorem State.setCs_flags (v : Word) : (s.setCs v).flags = s.flags := rfl
@[simp] theorem State.setCs_ipStart (v : Word) : (s.setCs v).ipStart = s.ipStart := rfl
@[simp] theorem State.setCs_pfx (v : Word) : (s.setCs v).pfx = s.pfx := rfl
@[simp] theorem State.setCs_activity (v : Word) : (s.setCs v).activity = s.activity := rfl
@[simp] theorem State.setCs_inhibit (v : Word) : (s.setCs v).inhibit = s.inhibit := rfl
@[simp] theorem State.setCs_inhibitInt (v : Word) : (s.setCs v).inhibitInt = s.inhibitInt := rfl
@[simp] theorem State.setCs_nmiLatch (v : Word) : (s.setCs v).nmiLatch = s.nmiLatch := rfl
@[simp] theorem State.setCs_due (v : Word) : (s.setCs v).due = s.due := rfl
@[simp] theorem State.setCs_mem (v : Word) : (s.setCs v).mem = s.mem := rfl
@[simp] theorem State.setCs_memMap (v : Word) : (s.setCs v).memMap = s.memMap := rfl
@[simp] theorem State.setCs_ioMap (v : Word) : (s.setCs v).ioMap = s.ioMap := rfl
@[simp] theorem State.setCs_memDevices (v : Word) : (s.setCs v).memDevices = s.memDevices := rfl
@[simp] theorem State.setCs_memLog (v : Word) : (s.setCs v).memLog = s.memLog := rfl
@[simp] theorem State.setCs_ports (v : Word) : (s.setCs v).ports = s.ports := rfl
@[simp] theorem State.setCs_portLog (v : Word) : (s.setCs v).portLog = s.portLog := rfl
@[simp] theorem State.setCs_pins (v : Word) : (s.setCs v).pins = s.pins := rfl
@[simp] theorem State.setCs_intaByte (v : Word) : (s.setCs v).intaByte = s.intaByte := rfl
@[simp] theorem State.setCs_acks (v : Word) : (s.setCs v).acks = s.acks := rfl
@[simp] theorem State.setCs_stale (v : Word) : (s.setCs v).stale = s.stale := rfl
@[simp] theorem State.setCs_reloc (v : Word) : (s.setCs v).reloc = s.reloc := rfl
@[simp] theorem State.setCs_chip (v : Word) : (s.setCs v).chip = s.chip := rfl
@[simp] theorem State.setCs_dma (v : Word) : (s.setCs v).dma = s.dma := rfl
@[simp] theorem State.setCs_timers (v : Word) : (s.setCs v).timers = s.timers := rfl
@[simp] theorem State.setCs_intc (v : Word) : (s.setCs v).intc = s.intc := rfl
@[simp] theorem State.setCs_agenda (v : Word) : (s.setCs v).agenda = s.agenda := rfl
@[simp] theorem State.setCs_free (v : Word) : (s.setCs v).free = s.free := rfl

/-! ### setSeg -/

@[simp] theorem State.setSeg_regs (r : SegReg) (v : Word) : (s.setSeg r v).regs = s.regs := rfl
@[simp] theorem State.setSeg_segs (r : SegReg) (v : Word) : (s.setSeg r v).segs = s.segs.set r v := rfl
@[simp] theorem State.setSeg_ip (r : SegReg) (v : Word) : (s.setSeg r v).ip = s.ip := rfl
@[simp] theorem State.setSeg_flags (r : SegReg) (v : Word) : (s.setSeg r v).flags = s.flags := rfl
@[simp] theorem State.setSeg_ipStart (r : SegReg) (v : Word) : (s.setSeg r v).ipStart = s.ipStart := rfl
@[simp] theorem State.setSeg_pfx (r : SegReg) (v : Word) : (s.setSeg r v).pfx = s.pfx := rfl
@[simp] theorem State.setSeg_activity (r : SegReg) (v : Word) : (s.setSeg r v).activity = s.activity := rfl
@[simp] theorem State.setSeg_inhibit (r : SegReg) (v : Word) : (s.setSeg r v).inhibit = s.inhibit := rfl
@[simp] theorem State.setSeg_inhibitInt (r : SegReg) (v : Word) : (s.setSeg r v).inhibitInt = s.inhibitInt := rfl
@[simp] theorem State.setSeg_nmiLatch (r : SegReg) (v : Word) : (s.setSeg r v).nmiLatch = s.nmiLatch := rfl
@[simp] theorem State.setSeg_due (r : SegReg) (v : Word) : (s.setSeg r v).due = s.due := rfl
@[simp] theorem State.setSeg_mem (r : SegReg) (v : Word) : (s.setSeg r v).mem = s.mem := rfl
@[simp] theorem State.setSeg_memMap (r : SegReg) (v : Word) : (s.setSeg r v).memMap = s.memMap := rfl
@[simp] theorem State.setSeg_ioMap (r : SegReg) (v : Word) : (s.setSeg r v).ioMap = s.ioMap := rfl
@[simp] theorem State.setSeg_memDevices (r : SegReg) (v : Word) : (s.setSeg r v).memDevices = s.memDevices := rfl
@[simp] theorem State.setSeg_memLog (r : SegReg) (v : Word) : (s.setSeg r v).memLog = s.memLog := rfl
@[simp] theorem State.setSeg_ports (r : SegReg) (v : Word) : (s.setSeg r v).ports = s.ports := rfl
@[simp] theorem State.setSeg_portLog (r : SegReg) (v : Word) : (s.setSeg r v).portLog = s.portLog := rfl
@[simp] theorem State.setSeg_pins (r : SegReg) (v : Word) : (s.setSeg r v).pins = s.pins := rfl
@[simp] theorem State.setSeg_intaByte (r : SegReg) (v : Word) : (s.setSeg r v).intaByte = s.intaByte := rfl
@[simp] theorem State.setSeg_acks (r : SegReg) (v : Word) : (s.setSeg r v).acks = s.acks := rfl
@[simp] theorem State.setSeg_stale (r : SegReg) (v : Word) : (s.setSeg r v).stale = s.stale := rfl
@[simp] theorem State.setSeg_reloc (r : SegReg) (v : Word) : (s.setSeg r v).reloc = s.reloc := rfl
@[simp] theorem State.setSeg_chip (r : SegReg) (v : Word) : (s.setSeg r v).chip = s.chip := rfl
@[simp] theorem State.setSeg_dma (r : SegReg) (v : Word) : (s.setSeg r v).dma = s.dma := rfl
@[simp] theorem State.setSeg_timers (r : SegReg) (v : Word) : (s.setSeg r v).timers = s.timers := rfl
@[simp] theorem State.setSeg_intc (r : SegReg) (v : Word) : (s.setSeg r v).intc = s.intc := rfl
@[simp] theorem State.setSeg_agenda (r : SegReg) (v : Word) : (s.setSeg r v).agenda = s.agenda := rfl
@[simp] theorem State.setSeg_free (r : SegReg) (v : Word) : (s.setSeg r v).free = s.free := rfl

/-! ### setFlags -/

@[simp] theorem State.setFlags_regs (f : Flags) : (s.setFlags f).regs = s.regs := rfl
@[simp] theorem State.setFlags_segs (f : Flags) : (s.setFlags f).segs = s.segs := rfl
@[simp] theorem State.setFlags_ip (f : Flags) : (s.setFlags f).ip = s.ip := rfl
@[simp] theorem State.setFlags_flags (f : Flags) : (s.setFlags f).flags = f := rfl
@[simp] theorem State.setFlags_ipStart (f : Flags) : (s.setFlags f).ipStart = s.ipStart := rfl
@[simp] theorem State.setFlags_pfx (f : Flags) : (s.setFlags f).pfx = s.pfx := rfl
@[simp] theorem State.setFlags_activity (f : Flags) : (s.setFlags f).activity = s.activity := rfl
@[simp] theorem State.setFlags_inhibit (f : Flags) : (s.setFlags f).inhibit = s.inhibit := rfl
@[simp] theorem State.setFlags_inhibitInt (f : Flags) : (s.setFlags f).inhibitInt = s.inhibitInt := rfl
@[simp] theorem State.setFlags_nmiLatch (f : Flags) : (s.setFlags f).nmiLatch = s.nmiLatch := rfl
@[simp] theorem State.setFlags_due (f : Flags) : (s.setFlags f).due = s.due := rfl
@[simp] theorem State.setFlags_mem (f : Flags) : (s.setFlags f).mem = s.mem := rfl
@[simp] theorem State.setFlags_memMap (f : Flags) : (s.setFlags f).memMap = s.memMap := rfl
@[simp] theorem State.setFlags_ioMap (f : Flags) : (s.setFlags f).ioMap = s.ioMap := rfl
@[simp] theorem State.setFlags_memDevices (f : Flags) : (s.setFlags f).memDevices = s.memDevices := rfl
@[simp] theorem State.setFlags_memLog (f : Flags) : (s.setFlags f).memLog = s.memLog := rfl
@[simp] theorem State.setFlags_ports (f : Flags) : (s.setFlags f).ports = s.ports := rfl
@[simp] theorem State.setFlags_portLog (f : Flags) : (s.setFlags f).portLog = s.portLog := rfl
@[simp] theorem State.setFlags_pins (f : Flags) : (s.setFlags f).pins = s.pins := rfl
@[simp] theorem State.setFlags_intaByte (f : Flags) : (s.setFlags f).intaByte = s.intaByte := rfl
@[simp] theorem State.setFlags_acks (f : Flags) : (s.setFlags f).acks = s.acks := rfl
@[simp] theorem State.setFlags_stale (f : Flags) : (s.setFlags f).stale = s.stale := rfl
@[simp] theorem State.setFlags_reloc (f : Flags) : (s.setFlags f).reloc = s.reloc := rfl
@[simp] theorem State.setFlags_chip (f : Flags) : (s.setFlags f).chip = s.chip := rfl
@[simp] theorem State.setFlags_dma (f : Flags) : (s.setFlags f).dma = s.dma := rfl
@[simp] theorem State.setFlags_timers (f : Flags) : (s.setFlags f).timers = s.timers := rfl
@[simp] theorem State.setFlags_intc (f : Flags) : (s.setFlags f).intc = s.intc := rfl
@[simp] theorem State.setFlags_agenda (f : Flags) : (s.setFlags f).agenda = s.agenda := rfl
@[simp] theorem State.setFlags_free (f : Flags) : (s.setFlags f).free = s.free := rfl

/-! ### jump -/

@[simp] theorem State.jump_regs (v : Word) : (s.jump v).regs = s.regs := rfl
@[simp] theorem State.jump_segs (v : Word) : (s.jump v).segs = s.segs := rfl
@[simp] theorem State.jump_ip (v : Word) : (s.jump v).ip = v := rfl
@[simp] theorem State.jump_flags (v : Word) : (s.jump v).flags = s.flags := rfl
@[simp] theorem State.jump_ipStart (v : Word) : (s.jump v).ipStart = s.ipStart := rfl
@[simp] theorem State.jump_pfx (v : Word) : (s.jump v).pfx = s.pfx := rfl
@[simp] theorem State.jump_activity (v : Word) : (s.jump v).activity = s.activity := rfl
@[simp] theorem State.jump_inhibit (v : Word) : (s.jump v).inhibit = s.inhibit := rfl
@[simp] theorem State.jump_inhibitInt (v : Word) : (s.jump v).inhibitInt = s.inhibitInt := rfl
@[simp] theorem State.jump_nmiLatch (v : Word) : (s.jump v).nmiLatch = s.nmiLatch := rfl
@[simp] theorem State.jump_due (v : Word) : (s.jump v).due = s.due := rfl
@[simp] theorem State.jump_mem (v : Word) : (s.jump v).mem = s.mem := rfl
@[simp] theorem State.jump_memMap (v : Word) : (s.jump v).memMap = s.memMap := rfl
@[simp] theorem State.jump_ioMap (v : Word) : (s.jump v).ioMap = s.ioMap := rfl
@[simp] theorem State.jump_memDevices (v : Word) : (s.jump v).memDevices = s.memDevices := rfl
@[simp] theorem State.jump_memLog (v : Word) : (s.jump v).memLog = s.memLog := rfl
@[simp] theorem State.jump_ports (v : Word) : (s.jump v).ports = s.ports := rfl
@[simp] theorem State.jump_portLog (v : Word) : (s.jump v).portLog = s.portLog := rfl
@[simp] theorem State.jump_pins (v : Word) : (s.jump v).pins = s.pins := rfl
@[simp] theorem State.jump_intaByte (v : Word) : (s.jump v).intaByte = s.intaByte := rfl
@[simp] theorem State.jump_acks (v : Word) : (s.jump v).acks = s.acks := rfl
@[simp] theorem State.jump_stale (v : Word) : (s.jump v).stale = [] := rfl
@[simp] theorem State.jump_reloc (v : Word) : (s.jump v).reloc = s.reloc := rfl
@[simp] theorem State.jump_chip (v : Word) : (s.jump v).chip = s.chip := rfl
@[simp] theorem State.jump_dma (v : Word) : (s.jump v).dma = s.dma := rfl
@[simp] theorem State.jump_timers (v : Word) : (s.jump v).timers = s.timers := rfl
@[simp] theorem State.jump_intc (v : Word) : (s.jump v).intc = s.intc := rfl
@[simp] theorem State.jump_agenda (v : Word) : (s.jump v).agenda = s.agenda := rfl
@[simp] theorem State.jump_free (v : Word) : (s.jump v).free = s.free := rfl

/-! ### farJump -/

@[simp] theorem State.farJump_regs (c v : Word) : (s.farJump c v).regs = s.regs := rfl
@[simp] theorem State.farJump_segs (c v : Word) : (s.farJump c v).segs = { s.segs with cs := c } := rfl
@[simp] theorem State.farJump_ip (c v : Word) : (s.farJump c v).ip = v := rfl
@[simp] theorem State.farJump_flags (c v : Word) : (s.farJump c v).flags = s.flags := rfl
@[simp] theorem State.farJump_ipStart (c v : Word) : (s.farJump c v).ipStart = s.ipStart := rfl
@[simp] theorem State.farJump_pfx (c v : Word) : (s.farJump c v).pfx = s.pfx := rfl
@[simp] theorem State.farJump_activity (c v : Word) : (s.farJump c v).activity = s.activity := rfl
@[simp] theorem State.farJump_inhibit (c v : Word) : (s.farJump c v).inhibit = s.inhibit := rfl
@[simp] theorem State.farJump_inhibitInt (c v : Word) : (s.farJump c v).inhibitInt = s.inhibitInt := rfl
@[simp] theorem State.farJump_nmiLatch (c v : Word) : (s.farJump c v).nmiLatch = s.nmiLatch := rfl
@[simp] theorem State.farJump_due (c v : Word) : (s.farJump c v).due = s.due := rfl
@[simp] theorem State.farJump_mem (c v : Word) : (s.farJump c v).mem = s.mem := rfl
@[simp] theorem State.farJump_memMap (c v : Word) : (s.farJump c v).memMap = s.memMap := rfl
@[simp] theorem State.farJump_ioMap (c v : Word) : (s.farJump c v).ioMap = s.ioMap := rfl
@[simp] theorem State.farJump_memDevices (c v : Word) : (s.farJump c v).memDevices = s.memDevices := rfl
@[simp] theorem State.farJump_memLog (c v : Word) : (s.farJump c v).memLog = s.memLog := rfl
@[simp] theorem State.farJump_ports (c v : Word) : (s.farJump c v).ports = s.ports := rfl
@[simp] theorem State.farJump_portLog (c v : Word) : (s.farJump c v).portLog = s.portLog := rfl
@[simp] theorem State.farJump_pins (c v : Word) : (s.farJump c v).pins = s.pins := rfl
@[simp] theorem State.farJump_intaByte (c v : Word) : (s.farJump c v).intaByte = s.intaByte := rfl
@[simp] theorem State.farJump_acks (c v : Word) : (s.farJump c v).acks = s.acks := rfl
@[simp] theorem State.farJump_stale (c v : Word) : (s.farJump c v).stale = [] := rfl
@[simp] theorem State.farJump_reloc (c v : Word) : (s.farJump c v).reloc = s.reloc := rfl
@[simp] theorem State.farJump_chip (c v : Word) : (s.farJump c v).chip = s.chip := rfl
@[simp] theorem State.farJump_dma (c v : Word) : (s.farJump c v).dma = s.dma := rfl
@[simp] theorem State.farJump_timers (c v : Word) : (s.farJump c v).timers = s.timers := rfl
@[simp] theorem State.farJump_intc (c v : Word) : (s.farJump c v).intc = s.intc := rfl
@[simp] theorem State.farJump_agenda (c v : Word) : (s.farJump c v).agenda = s.agenda := rfl
@[simp] theorem State.farJump_free (c v : Word) : (s.farJump c v).free = s.free := rfl

/-! ### maskTraps -/

@[simp] theorem State.maskTraps_regs : (s.maskTraps).regs = s.regs := rfl
@[simp] theorem State.maskTraps_segs : (s.maskTraps).segs = s.segs := rfl
@[simp] theorem State.maskTraps_ip : (s.maskTraps).ip = s.ip := rfl
@[simp] theorem State.maskTraps_flags : (s.maskTraps).flags = { s.flags with ifl := false, tf := false } := rfl
@[simp] theorem State.maskTraps_ipStart : (s.maskTraps).ipStart = s.ipStart := rfl
@[simp] theorem State.maskTraps_pfx : (s.maskTraps).pfx = s.pfx := rfl
@[simp] theorem State.maskTraps_activity : (s.maskTraps).activity = s.activity := rfl
@[simp] theorem State.maskTraps_inhibit : (s.maskTraps).inhibit = s.inhibit := rfl
@[simp] theorem State.maskTraps_inhibitInt : (s.maskTraps).inhibitInt = s.inhibitInt := rfl
@[simp] theorem State.maskTraps_nmiLatch : (s.maskTraps).nmiLatch = s.nmiLatch := rfl
@[simp] theorem State.maskTraps_due : (s.maskTraps).due = s.due := rfl
@[simp] theorem State.maskTraps_mem : (s.maskTraps).mem = s.mem := rfl
@[simp] theorem State.maskTraps_memMap : (s.maskTraps).memMap = s.memMap := rfl
@[simp] theorem State.maskTraps_ioMap : (s.maskTraps).ioMap = s.ioMap := rfl
@[simp] theorem State.maskTraps_memDevices : (s.maskTraps).memDevices = s.memDevices := rfl
@[simp] theorem State.maskTraps_memLog : (s.maskTraps).memLog = s.memLog := rfl
@[simp] theorem State.maskTraps_ports : (s.maskTraps).ports = s.ports := rfl
@[simp] theorem State.maskTraps_portLog : (s.maskTraps).portLog = s.portLog := rfl
@[simp] theorem State.maskTraps_pins : (s.maskTraps).pins = s.pins := rfl
@[simp] theorem State.maskTraps_intaByte : (s.maskTraps).intaByte = s.intaByte := rfl
@[simp] theorem State.maskTraps_acks : (s.maskTraps).acks = s.acks := rfl
@[simp] theorem State.maskTraps_stale : (s.maskTraps).stale = s.stale := rfl
@[simp] theorem State.maskTraps_reloc : (s.maskTraps).reloc = s.reloc := rfl
@[simp] theorem State.maskTraps_chip : (s.maskTraps).chip = s.chip := rfl
@[simp] theorem State.maskTraps_dma : (s.maskTraps).dma = s.dma := rfl
@[simp] theorem State.maskTraps_timers : (s.maskTraps).timers = s.timers := rfl
@[simp] theorem State.maskTraps_intc : (s.maskTraps).intc = s.intc := rfl
@[simp] theorem State.maskTraps_agenda : (s.maskTraps).agenda = s.agenda := rfl
@[simp] theorem State.maskTraps_free : (s.maskTraps).free = s.free := rfl

/-! ### leaveInstruction -/

@[simp] theorem State.leaveInstruction_regs : (s.leaveInstruction).regs = s.regs := rfl
@[simp] theorem State.leaveInstruction_segs : (s.leaveInstruction).segs = s.segs := rfl
@[simp] theorem State.leaveInstruction_ip : (s.leaveInstruction).ip = s.ip := rfl
@[simp] theorem State.leaveInstruction_flags : (s.leaveInstruction).flags = s.flags := rfl
@[simp] theorem State.leaveInstruction_ipStart : (s.leaveInstruction).ipStart = s.ipStart := rfl
@[simp] theorem State.leaveInstruction_pfx : (s.leaveInstruction).pfx = .none := rfl
@[simp] theorem State.leaveInstruction_activity : (s.leaveInstruction).activity = .running := rfl
@[simp] theorem State.leaveInstruction_inhibit : (s.leaveInstruction).inhibit = s.inhibit := rfl
@[simp] theorem State.leaveInstruction_inhibitInt : (s.leaveInstruction).inhibitInt = s.inhibitInt := rfl
@[simp] theorem State.leaveInstruction_nmiLatch : (s.leaveInstruction).nmiLatch = s.nmiLatch := rfl
@[simp] theorem State.leaveInstruction_due : (s.leaveInstruction).due = s.due := rfl
@[simp] theorem State.leaveInstruction_mem : (s.leaveInstruction).mem = s.mem := rfl
@[simp] theorem State.leaveInstruction_memMap : (s.leaveInstruction).memMap = s.memMap := rfl
@[simp] theorem State.leaveInstruction_ioMap : (s.leaveInstruction).ioMap = s.ioMap := rfl
@[simp] theorem State.leaveInstruction_memDevices : (s.leaveInstruction).memDevices = s.memDevices := rfl
@[simp] theorem State.leaveInstruction_memLog : (s.leaveInstruction).memLog = s.memLog := rfl
@[simp] theorem State.leaveInstruction_ports : (s.leaveInstruction).ports = s.ports := rfl
@[simp] theorem State.leaveInstruction_portLog : (s.leaveInstruction).portLog = s.portLog := rfl
@[simp] theorem State.leaveInstruction_pins : (s.leaveInstruction).pins = s.pins := rfl
@[simp] theorem State.leaveInstruction_intaByte : (s.leaveInstruction).intaByte = s.intaByte := rfl
@[simp] theorem State.leaveInstruction_acks : (s.leaveInstruction).acks = s.acks := rfl
@[simp] theorem State.leaveInstruction_stale : (s.leaveInstruction).stale = s.stale := rfl
@[simp] theorem State.leaveInstruction_reloc : (s.leaveInstruction).reloc = s.reloc := rfl
@[simp] theorem State.leaveInstruction_chip : (s.leaveInstruction).chip = s.chip := rfl
@[simp] theorem State.leaveInstruction_dma : (s.leaveInstruction).dma = s.dma := rfl
@[simp] theorem State.leaveInstruction_timers : (s.leaveInstruction).timers = s.timers := rfl
@[simp] theorem State.leaveInstruction_intc : (s.leaveInstruction).intc = s.intc := rfl
@[simp] theorem State.leaveInstruction_agenda : (s.leaveInstruction).agenda = s.agenda := rfl
@[simp] theorem State.leaveInstruction_free : (s.leaveInstruction).free = s.free := rfl

/-! ### inhibited -/

@[simp] theorem State.inhibited_regs : (s.inhibited).regs = s.regs := rfl
@[simp] theorem State.inhibited_segs : (s.inhibited).segs = s.segs := rfl
@[simp] theorem State.inhibited_ip : (s.inhibited).ip = s.ip := rfl
@[simp] theorem State.inhibited_flags : (s.inhibited).flags = s.flags := rfl
@[simp] theorem State.inhibited_ipStart : (s.inhibited).ipStart = s.ipStart := rfl
@[simp] theorem State.inhibited_pfx : (s.inhibited).pfx = s.pfx := rfl
@[simp] theorem State.inhibited_activity : (s.inhibited).activity = s.activity := rfl
@[simp] theorem State.inhibited_inhibit : (s.inhibited).inhibit = true := rfl
@[simp] theorem State.inhibited_inhibitInt : (s.inhibited).inhibitInt = s.inhibitInt := rfl
@[simp] theorem State.inhibited_nmiLatch : (s.inhibited).nmiLatch = s.nmiLatch := rfl
@[simp] theorem State.inhibited_due : (s.inhibited).due = s.due := rfl
@[simp] theorem State.inhibited_mem : (s.inhibited).mem = s.mem := rfl
@[simp] theorem State.inhibited_memMap : (s.inhibited).memMap = s.memMap := rfl
@[simp] theorem State.inhibited_ioMap : (s.inhibited).ioMap = s.ioMap := rfl
@[simp] theorem State.inhibited_memDevices : (s.inhibited).memDevices = s.memDevices := rfl
@[simp] theorem State.inhibited_memLog : (s.inhibited).memLog = s.memLog := rfl
@[simp] theorem State.inhibited_ports : (s.inhibited).ports = s.ports := rfl
@[simp] theorem State.inhibited_portLog : (s.inhibited).portLog = s.portLog := rfl
@[simp] theorem State.inhibited_pins : (s.inhibited).pins = s.pins := rfl
@[simp] theorem State.inhibited_intaByte : (s.inhibited).intaByte = s.intaByte := rfl
@[simp] theorem State.inhibited_acks : (s.inhibited).acks = s.acks := rfl
@[simp] theorem State.inhibited_stale : (s.inhibited).stale = s.stale := rfl
@[simp] theorem State.inhibited_reloc : (s.inhibited).reloc = s.reloc := rfl
@[simp] theorem State.inhibited_chip : (s.inhibited).chip = s.chip := rfl
@[simp] theorem State.inhibited_dma : (s.inhibited).dma = s.dma := rfl
@[simp] theorem State.inhibited_timers : (s.inhibited).timers = s.timers := rfl
@[simp] theorem State.inhibited_intc : (s.inhibited).intc = s.intc := rfl
@[simp] theorem State.inhibited_agenda : (s.inhibited).agenda = s.agenda := rfl
@[simp] theorem State.inhibited_free : (s.inhibited).free = s.free := rfl

/-! ### drawn -/

@[simp] theorem State.drawn_regs (n : Nat) : (s.drawn n).regs = s.regs := rfl
@[simp] theorem State.drawn_segs (n : Nat) : (s.drawn n).segs = s.segs := rfl
@[simp] theorem State.drawn_ip (n : Nat) : (s.drawn n).ip = s.ip := rfl
@[simp] theorem State.drawn_flags (n : Nat) : (s.drawn n).flags = s.flags := rfl
@[simp] theorem State.drawn_ipStart (n : Nat) : (s.drawn n).ipStart = s.ipStart := rfl
@[simp] theorem State.drawn_pfx (n : Nat) : (s.drawn n).pfx = s.pfx := rfl
@[simp] theorem State.drawn_activity (n : Nat) : (s.drawn n).activity = s.activity := rfl
@[simp] theorem State.drawn_inhibit (n : Nat) : (s.drawn n).inhibit = s.inhibit := rfl
@[simp] theorem State.drawn_inhibitInt (n : Nat) : (s.drawn n).inhibitInt = s.inhibitInt := rfl
@[simp] theorem State.drawn_nmiLatch (n : Nat) : (s.drawn n).nmiLatch = s.nmiLatch := rfl
@[simp] theorem State.drawn_due (n : Nat) : (s.drawn n).due = s.due := rfl
@[simp] theorem State.drawn_mem (n : Nat) : (s.drawn n).mem = s.mem := rfl
@[simp] theorem State.drawn_memMap (n : Nat) : (s.drawn n).memMap = s.memMap := rfl
@[simp] theorem State.drawn_ioMap (n : Nat) : (s.drawn n).ioMap = s.ioMap := rfl
@[simp] theorem State.drawn_memDevices (n : Nat) : (s.drawn n).memDevices = s.memDevices := rfl
@[simp] theorem State.drawn_memLog (n : Nat) : (s.drawn n).memLog = s.memLog := rfl
@[simp] theorem State.drawn_ports (n : Nat) : (s.drawn n).ports = s.ports := rfl
@[simp] theorem State.drawn_portLog (n : Nat) : (s.drawn n).portLog = s.portLog := rfl
@[simp] theorem State.drawn_pins (n : Nat) : (s.drawn n).pins = s.pins := rfl
@[simp] theorem State.drawn_intaByte (n : Nat) : (s.drawn n).intaByte = s.intaByte := rfl
@[simp] theorem State.drawn_acks (n : Nat) : (s.drawn n).acks = s.acks := rfl
@[simp] theorem State.drawn_stale (n : Nat) : (s.drawn n).stale = s.stale := rfl
@[simp] theorem State.drawn_reloc (n : Nat) : (s.drawn n).reloc = s.reloc := rfl
@[simp] theorem State.drawn_chip (n : Nat) : (s.drawn n).chip = s.chip := rfl
@[simp] theorem State.drawn_dma (n : Nat) : (s.drawn n).dma = s.dma := rfl
@[simp] theorem State.drawn_timers (n : Nat) : (s.drawn n).timers = s.timers := rfl
@[simp] theorem State.drawn_intc (n : Nat) : (s.drawn n).intc = s.intc := rfl
@[simp] theorem State.drawn_agenda (n : Nat) : (s.drawn n).agenda = s.agenda := rfl
@[simp] theorem State.drawn_free (n : Nat) : (s.drawn n).free = s.free + n := rfl

/-! ### logPort -/

@[simp] theorem State.logPort_regs (p : Word) (wide : Bool) (v : Word) : (s.logPort p wide v).regs = s.regs := rfl
@[simp] theorem State.logPort_segs (p : Word) (wide : Bool) (v : Word) : (s.logPort p wide v).segs = s.segs := rfl
@[simp] theorem State.logPort_ip (p : Word) (wide : Bool) (v : Word) : (s.logPort p wide v).ip = s.ip := rfl
@[simp] theorem State.logPort_flags (p : Word) (wide : Bool) (v : Word) : (s.logPort p wide v).flags = s.flags := rfl
@[simp] theorem State.logPort_ipStart (p : Word) (wide : Bool) (v : Word) : (s.logPort p wide v).ipStart = s.ipStart := rfl
@[simp] theorem State.logPort_pfx (p : Word) (wide : Bool) (v : Word) : (s.logPort p wide v).pfx = s.pfx := rfl
@[simp] theorem State.logPort_activity (p : Word) (wide : Bool) (v : Word) : (s.logPort p wide v).activity = s.activity := rfl
@[simp] theorem State.logPort_inhibit (p : Word) (wide : Bool) (v : Word) : (s.logPort p wide v).inhibit = s.inhibit := rfl
@[simp] theorem State.logPort_inhibitInt (p : Word) (wide : Bool) (v : Word) : (s.logPort p wide v).inhibitInt = s.inhibitInt := rfl
@[simp] theorem State.logPort_nmiLatch (p : Word) (wide : Bool) (v : Word) : (s.logPort p wide v).nmiLatch = s.nmiLatch := rfl
@[simp] theorem State.logPort_due (p : Word) (wide : Bool) (v : Word) : (s.logPort p wide v).due = s.due := rfl
@[simp] theorem State.logPort_mem (p : Word) (wide : Bool) (v : Word) : (s.logPort p wide v).mem = s.mem := rfl
@[simp] theorem State.logPort_memMap (p : Word) (wide : Bool) (v : Word) : (s.logPort p wide v).memMap = s.memMap := rfl
@[simp] theorem State.logPort_ioMap (p : Word) (wide : Bool) (v : Word) : (s.logPort p wide v).ioMap = s.ioMap := rfl
@[simp] theorem State.logPort_memDevices (p : Word) (wide : Bool) (v : Word) : (s.logPort p wide v).memDevices = s.memDevices := rfl
@[simp] theorem State.logPort_memLog (p : Word) (wide : Bool) (v : Word) : (s.logPort p wide v).memLog = s.memLog := rfl
@[simp] theorem State.logPort_ports (p : Word) (wide : Bool) (v : Word) : (s.logPort p wide v).ports = s.ports := rfl
@[simp] theorem State.logPort_portLog (p : Word) (wide : Bool) (v : Word) : (s.logPort p wide v).portLog = { port := p, wide := wide, value := v } :: s.portLog := rfl
@[simp] theorem State.logPort_pins (p : Word) (wide : Bool) (v : Word) : (s.logPort p wide v).pins = s.pins := rfl
@[simp] theorem State.logPort_intaByte (p : Word) (wide : Bool) (v : Word) : (s.logPort p wide v).intaByte = s.intaByte := rfl
@[simp] theorem State.logPort_acks (p : Word) (wide : Bool) (v : Word) : (s.logPort p wide v).acks = s.acks := rfl
@[simp] theorem State.logPort_stale (p : Word) (wide : Bool) (v : Word) : (s.logPort p wide v).stale = s.stale := rfl
@[simp] theorem State.logPort_reloc (p : Word) (wide : Bool) (v : Word) : (s.logPort p wide v).reloc = s.reloc := rfl
@[simp] theorem State.logPort_chip (p : Word) (wide : Bool) (v : Word) : (s.logPort p wide v).chip = s.chip := rfl
@[simp] theorem State.logPort_dma (p : Word) (wide : Bool) (v : Word) : (s.logPort p wide v).dma = s.dma := rfl
@[simp] theorem State.logPort_timers (p : Word) (wide : Bool) (v : Word) : (s.logPort p wide v).timers = s.timers := rfl
@[simp] theorem State.logPort_intc (p : Word) (wide : Bool) (v : Word) : (s.logPort p wide v).intc = s.intc := rfl
@[simp] theorem State.logPort_agenda (p : Word) (wide : Bool) (v : Word) : (s.logPort p wide v).agenda = s.agenda := rfl
@[simp] theorem State.logPort_free (p : Word) (wide : Bool) (v : Word) : (s.logPort p wide v).free = s.free := rfl

/-! ### logMem -/

@[simp] theorem State.logMem_regs (a : Addr) (v : Byte) : (s.logMem a v).regs = s.regs := rfl
@[simp] theorem State.logMem_segs (a : Addr) (v : Byte) : (s.logMem a v).segs = s.segs := rfl
@[simp] theorem State.logMem_ip (a : Addr) (v : Byte) : (s.logMem a v).ip = s.ip := rfl
@[simp] theorem State.logMem_flags (a : Addr) (v : Byte) : (s.logMem a v).flags = s.flags := rfl
@[simp] theorem State.logMem_ipStart (a : Addr) (v : Byte) : (s.logMem a v).ipStart = s.ipStart := rfl
@[simp] theorem State.logMem_pfx (a : Addr) (v : Byte) : (s.logMem a v).pfx = s.pfx := rfl
@[simp] theorem State.logMem_activity (a : Addr) (v : Byte) : (s.logMem a v).activity = s.activity := rfl
@[simp] theorem State.logMem_inhibit (a : Addr) (v : Byte) : (s.logMem a v).inhibit = s.inhibit := rfl
@[simp] theorem State.logMem_inhibitInt (a : Addr) (v : Byte) : (s.logMem a v).inhibitInt = s.inhibitInt := rfl
@[simp] theorem State.logMem_nmiLatch (a : Addr) (v : Byte) : (s.logMem a v).nmiLatch = s.nmiLatch := rfl
@[simp] theorem State.logMem_due (a : Addr) (v : Byte) : (s.logMem a v).due = s.due := rfl
@[simp] theorem State.logMem_mem (a : Addr) (v : Byte) : (s.logMem a v).mem = s.mem := rfl
@[simp] theorem State.logMem_memMap (a : Addr) (v : Byte) : (s.logMem a v).memMap = s.memMap := rfl
@[simp] theorem State.logMem_ioMap (a : Addr) (v : Byte) : (s.logMem a v).ioMap = s.ioMap := rfl
@[simp] theorem State.logMem_memDevices (a : Addr) (v : Byte) : (s.logMem a v).memDevices = s.memDevices := rfl
@[simp] theorem State.logMem_memLog (a : Addr) (v : Byte) : (s.logMem a v).memLog = { addr := a, value := v } :: s.memLog := rfl
@[simp] theorem State.logMem_ports (a : Addr) (v : Byte) : (s.logMem a v).ports = s.ports := rfl
@[simp] theorem State.logMem_portLog (a : Addr) (v : Byte) : (s.logMem a v).portLog = s.portLog := rfl
@[simp] theorem State.logMem_pins (a : Addr) (v : Byte) : (s.logMem a v).pins = s.pins := rfl
@[simp] theorem State.logMem_intaByte (a : Addr) (v : Byte) : (s.logMem a v).intaByte = s.intaByte := rfl
@[simp] theorem State.logMem_acks (a : Addr) (v : Byte) : (s.logMem a v).acks = s.acks := rfl
@[simp] theorem State.logMem_stale (a : Addr) (v : Byte) : (s.logMem a v).stale = s.stale := rfl
@[simp] theorem State.logMem_reloc (a : Addr) (v : Byte) : (s.logMem a v).reloc = s.reloc := rfl
@[simp] theorem State.logMem_chip (a : Addr) (v : Byte) : (s.logMem a v).chip = s.chip := rfl
@[simp] theorem State.logMem_dma (a : Addr) (v : Byte) : (s.logMem a v).dma = s.dma := rfl
@[simp] theorem State.logMem_timers (a : Addr) (v : Byte) : (s.logMem a v).timers = s.timers := rfl
@[simp] theorem State.logMem_intc (a : Addr) (v : Byte) : (s.logMem a v).intc = s.intc := rfl
@[simp] theorem State.logMem_agenda (a : Addr) (v : Byte) : (s.logMem a v).agenda = s.agenda := rfl
@[simp] theorem State.logMem_free (a : Addr) (v : Byte) : (s.logMem a v).free = s.free := rfl

/-! ### pulseAck -/

@[simp] theorem State.pulseAck_regs (p : Pin) : (s.pulseAck p).regs = s.regs := rfl
@[simp] theorem State.pulseAck_segs (p : Pin) : (s.pulseAck p).segs = s.segs := rfl
@[simp] theorem State.pulseAck_ip (p : Pin) : (s.pulseAck p).ip = s.ip := rfl
@[simp] theorem State.pulseAck_flags (p : Pin) : (s.pulseAck p).flags = s.flags := rfl
@[simp] theorem State.pulseAck_ipStart (p : Pin) : (s.pulseAck p).ipStart = s.ipStart := rfl
@[simp] theorem State.pulseAck_pfx (p : Pin) : (s.pulseAck p).pfx = s.pfx := rfl
@[simp] theorem State.pulseAck_activity (p : Pin) : (s.pulseAck p).activity = s.activity := rfl
@[simp] theorem State.pulseAck_inhibit (p : Pin) : (s.pulseAck p).inhibit = s.inhibit := rfl
@[simp] theorem State.pulseAck_inhibitInt (p : Pin) : (s.pulseAck p).inhibitInt = s.inhibitInt := rfl
@[simp] theorem State.pulseAck_nmiLatch (p : Pin) : (s.pulseAck p).nmiLatch = s.nmiLatch := rfl
@[simp] theorem State.pulseAck_due (p : Pin) : (s.pulseAck p).due = s.due := rfl
@[simp] theorem State.pulseAck_mem (p : Pin) : (s.pulseAck p).mem = s.mem := rfl
@[simp] theorem State.pulseAck_memMap (p : Pin) : (s.pulseAck p).memMap = s.memMap := rfl
@[simp] theorem State.pulseAck_ioMap (p : Pin) : (s.pulseAck p).ioMap = s.ioMap := rfl
@[simp] theorem State.pulseAck_memDevices (p : Pin) : (s.pulseAck p).memDevices = s.memDevices := rfl
@[simp] theorem State.pulseAck_memLog (p : Pin) : (s.pulseAck p).memLog = s.memLog := rfl
@[simp] theorem State.pulseAck_ports (p : Pin) : (s.pulseAck p).ports = s.ports := rfl
@[simp] theorem State.pulseAck_portLog (p : Pin) : (s.pulseAck p).portLog = s.portLog := rfl
@[simp] theorem State.pulseAck_pins (p : Pin) : (s.pulseAck p).pins = s.pins := rfl
@[simp] theorem State.pulseAck_intaByte (p : Pin) : (s.pulseAck p).intaByte = s.intaByte := rfl
@[simp] theorem State.pulseAck_acks (p : Pin) : (s.pulseAck p).acks = p :: s.acks := rfl
@[simp] theorem State.pulseAck_stale (p : Pin) : (s.pulseAck p).stale = s.stale := rfl
@[simp] theorem State.pulseAck_reloc (p : Pin) : (s.pulseAck p).reloc = s.reloc := rfl
@[simp] theorem State.pulseAck_chip (p : Pin) : (s.pulseAck p).chip = s.chip := rfl
@[simp] theorem State.pulseAck_dma (p : Pin) : (s.pulseAck p).dma = s.dma := rfl
@[simp] theorem State.pulseAck_timers (p : Pin) : (s.pulseAck p).timers = s.timers := rfl
@[simp] theorem State.pulseAck_intc (p : Pin) : (s.pulseAck p).intc = s.intc := rfl
@[simp] theorem State.pulseAck_agenda (p : Pin) : (s.pulseAck p).agenda = s.agenda := rfl
@[simp] theorem State.pulseAck_free (p : Pin) : (s.pulseAck p).free = s.free := rfl

/-! ### storeByte -/

@[simp] theorem State.storeByte_regs (a : Addr) (v : Byte) : (s.storeByte a v).regs = s.regs := rfl
@[simp] theorem State.storeByte_segs (a : Addr) (v : Byte) : (s.storeByte a v).segs = s.segs := rfl
@[simp] theorem State.storeByte_ip (a : Addr) (v : Byte) : (s.storeByte a v).ip = s.ip := rfl
@[simp] theorem State.storeByte_flags (a : Addr) (v : Byte) : (s.storeByte a v).flags = s.flags := rfl
@[simp] theorem State.storeByte_ipStart (a : Addr) (v : Byte) : (s.storeByte a v).ipStart = s.ipStart := rfl
@[simp] theorem State.storeByte_pfx (a : Addr) (v : Byte) : (s.storeByte a v).pfx = s.pfx := rfl
@[simp] theorem State.storeByte_activity (a : Addr) (v : Byte) : (s.storeByte a v).activity = s.activity := rfl
@[simp] theorem State.storeByte_inhibit (a : Addr) (v : Byte) : (s.storeByte a v).inhibit = s.inhibit := rfl
@[simp] theorem State.storeByte_inhibitInt (a : Addr) (v : Byte) : (s.storeByte a v).inhibitInt = s.inhibitInt := rfl
@[simp] theorem State.storeByte_nmiLatch (a : Addr) (v : Byte) : (s.storeByte a v).nmiLatch = s.nmiLatch := rfl
@[simp] theorem State.storeByte_due (a : Addr) (v : Byte) : (s.storeByte a v).due = s.due := rfl
@[simp] theorem State.storeByte_mem (a : Addr) (v : Byte) : (s.storeByte a v).mem = s.mem.put a.toNat v := rfl
@[simp] theorem State.storeByte_memMap (a : Addr) (v : Byte) : (s.storeByte a v).memMap = s.memMap := rfl
@[simp] theorem State.storeByte_ioMap (a : Addr) (v : Byte) : (s.storeByte a v).ioMap = s.ioMap := rfl
@[simp] theorem State.storeByte_memDevices (a : Addr) (v : Byte) : (s.storeByte a v).memDevices = s.memDevices := rfl
@[simp] theorem State.storeByte_memLog (a : Addr) (v : Byte) : (s.storeByte a v).memLog = s.memLog := rfl
@[simp] theorem State.storeByte_ports (a : Addr) (v : Byte) : (s.storeByte a v).ports = s.ports := rfl
@[simp] theorem State.storeByte_portLog (a : Addr) (v : Byte) : (s.storeByte a v).portLog = s.portLog := rfl
@[simp] theorem State.storeByte_pins (a : Addr) (v : Byte) : (s.storeByte a v).pins = s.pins := rfl
@[simp] theorem State.storeByte_intaByte (a : Addr) (v : Byte) : (s.storeByte a v).intaByte = s.intaByte := rfl
@[simp] theorem State.storeByte_acks (a : Addr) (v : Byte) : (s.storeByte a v).acks = s.acks := rfl
@[simp] theorem State.storeByte_stale (a : Addr) (v : Byte) : (s.storeByte a v).stale = s.noteStale a v := rfl
@[simp] theorem State.storeByte_reloc (a : Addr) (v : Byte) : (s.storeByte a v).reloc = s.reloc := rfl
@[simp] theorem State.storeByte_chip (a : Addr) (v : Byte) : (s.storeByte a v).chip = s.chip := rfl
@[simp] theorem State.storeByte_dma (a : Addr) (v : Byte) : (s.storeByte a v).dma = s.dma := rfl
@[simp] theorem State.storeByte_timers (a : Addr) (v : Byte) : (s.storeByte a v).timers = s.timers := rfl
@[simp] theorem State.storeByte_intc (a : Addr) (v : Byte) : (s.storeByte a v).intc = s.intc := rfl
@[simp] theorem State.storeByte_agenda (a : Addr) (v : Byte) : (s.storeByte a v).agenda = s.agenda := rfl
@[simp] theorem State.storeByte_free (a : Addr) (v : Byte) : (s.storeByte a v).free = s.free := rfl

/-! ### storeWord -/

@[simp] theorem State.storeWord_regs (a : Addr) (v : Word) : (s.storeWord a v).regs = s.regs := rfl
@[simp] theorem State.storeWord_segs (a : Addr) (v : Word) : (s.storeWord a v).segs = s.segs := rfl
@[simp] theorem State.storeWord_ip (a : Addr) (v : Word) : (s.storeWord a v).ip = s.ip := rfl
@[simp] theorem State.storeWord_flags (a : Addr) (v : Word) : (s.storeWord a v).flags = s.flags := rfl
@[simp] theorem State.storeWord_ipStart (a : Addr) (v : Word) : (s.storeWord a v).ipStart = s.ipStart := rfl
@[simp] theorem State.storeWord_pfx (a : Addr) (v : Word) : (s.storeWord a v).pfx = s.pfx := rfl
@[simp] theorem State.storeWord_activity (a : Addr) (v : Word) : (s.storeWord a v).activity = s.activity := rfl
@[simp] theorem State.storeWord_inhibit (a : Addr) (v : Word) : (s.storeWord a v).inhibit = s.inhibit := rfl
@[simp] theorem State.storeWord_inhibitInt (a : Addr) (v : Word) : (s.storeWord a v).inhibitInt = s.inhibitInt := rfl
@[simp] theorem State.storeWord_nmiLatch (a : Addr) (v : Word) : (s.storeWord a v).nmiLatch = s.nmiLatch := rfl
@[simp] theorem State.storeWord_due (a : Addr) (v : Word) : (s.storeWord a v).due = s.due := rfl
@[simp] theorem State.storeWord_mem (a : Addr) (v : Word) : (s.storeWord a v).mem = (s.mem.put a.toNat (Word.low v)).put (a + 1).toNat (Word.high v) := rfl
@[simp] theorem State.storeWord_memMap (a : Addr) (v : Word) : (s.storeWord a v).memMap = s.memMap := rfl
@[simp] theorem State.storeWord_ioMap (a : Addr) (v : Word) : (s.storeWord a v).ioMap = s.ioMap := rfl
@[simp] theorem State.storeWord_memDevices (a : Addr) (v : Word) : (s.storeWord a v).memDevices = s.memDevices := rfl
@[simp] theorem State.storeWord_memLog (a : Addr) (v : Word) : (s.storeWord a v).memLog = s.memLog := rfl
@[simp] theorem State.storeWord_ports (a : Addr) (v : Word) : (s.storeWord a v).ports = s.ports := rfl
@[simp] theorem State.storeWord_portLog (a : Addr) (v : Word) : (s.storeWord a v).portLog = s.portLog := rfl
@[simp] theorem State.storeWord_pins (a : Addr) (v : Word) : (s.storeWord a v).pins = s.pins := rfl
@[simp] theorem State.storeWord_intaByte (a : Addr) (v : Word) : (s.storeWord a v).intaByte = s.intaByte := rfl
@[simp] theorem State.storeWord_acks (a : Addr) (v : Word) : (s.storeWord a v).acks = s.acks := rfl
@[simp] theorem State.storeWord_stale (a : Addr) (v : Word) : (s.storeWord a v).stale = (s.storeByte a (Word.low v)).noteStale (a + 1) (Word.high v) := rfl
@[simp] theorem State.storeWord_reloc (a : Addr) (v : Word) : (s.storeWord a v).reloc = s.reloc := rfl
@[simp] theorem State.storeWord_chip (a : Addr) (v : Word) : (s.storeWord a v).chip = s.chip := rfl
@[simp] theorem State.storeWord_dma (a : Addr) (v : Word) : (s.storeWord a v).dma = s.dma := rfl
@[simp] theorem State.storeWord_timers (a : Addr) (v : Word) : (s.storeWord a v).timers = s.timers := rfl
@[simp] theorem State.storeWord_intc (a : Addr) (v : Word) : (s.storeWord a v).intc = s.intc := rfl
@[simp] theorem State.storeWord_agenda (a : Addr) (v : Word) : (s.storeWord a v).agenda = s.agenda := rfl
@[simp] theorem State.storeWord_free (a : Addr) (v : Word) : (s.storeWord a v).free = s.free := rfl

/-! ### setReg -/

@[simp] theorem State.setReg_segs (w : Width) (r : Reg) (v : BitVec w.bits) : (s.setReg w r v).segs = s.segs := by cases w <;> rfl
@[simp] theorem State.setReg_ip (w : Width) (r : Reg) (v : BitVec w.bits) : (s.setReg w r v).ip = s.ip := by cases w <;> rfl
@[simp] theorem State.setReg_flags (w : Width) (r : Reg) (v : BitVec w.bits) : (s.setReg w r v).flags = s.flags := by cases w <;> rfl
@[simp] theorem State.setReg_ipStart (w : Width) (r : Reg) (v : BitVec w.bits) : (s.setReg w r v).ipStart = s.ipStart := by cases w <;> rfl
@[simp] theorem State.setReg_pfx (w : Width) (r : Reg) (v : BitVec w.bits) : (s.setReg w r v).pfx = s.pfx := by cases w <;> rfl
@[simp] theorem State.setReg_activity (w : Width) (r : Reg) (v : BitVec w.bits) : (s.setReg w r v).activity = s.activity := by cases w <;> rfl
@[simp] theorem State.setReg_inhibit (w : Width) (r : Reg) (v : BitVec w.bits) : (s.setReg w r v).inhibit = s.inhibit := by cases w <;> rfl
@[simp] theorem State.setReg_inhibitInt (w : Width) (r : Reg) (v : BitVec w.bits) : (s.setReg w r v).inhibitInt = s.inhibitInt := by cases w <;> rfl
@[simp] theorem State.setReg_nmiLatch (w : Width) (r : Reg) (v : BitVec w.bits) : (s.setReg w r v).nmiLatch = s.nmiLatch := by cases w <;> rfl
@[simp] theorem State.setReg_due (w : Width) (r : Reg) (v : BitVec w.bits) : (s.setReg w r v).due = s.due := by cases w <;> rfl
@[simp] theorem State.setReg_mem (w : Width) (r : Reg) (v : BitVec w.bits) : (s.setReg w r v).mem = s.mem := by cases w <;> rfl
@[simp] theorem State.setReg_memMap (w : Width) (r : Reg) (v : BitVec w.bits) : (s.setReg w r v).memMap = s.memMap := by cases w <;> rfl
@[simp] theorem State.setReg_ioMap (w : Width) (r : Reg) (v : BitVec w.bits) : (s.setReg w r v).ioMap = s.ioMap := by cases w <;> rfl
@[simp] theorem State.setReg_memDevices (w : Width) (r : Reg) (v : BitVec w.bits) : (s.setReg w r v).memDevices = s.memDevices := by cases w <;> rfl
@[simp] theorem State.setReg_memLog (w : Width) (r : Reg) (v : BitVec w.bits) : (s.setReg w r v).memLog = s.memLog := by cases w <;> rfl
@[simp] theorem State.setReg_ports (w : Width) (r : Reg) (v : BitVec w.bits) : (s.setReg w r v).ports = s.ports := by cases w <;> rfl
@[simp] theorem State.setReg_portLog (w : Width) (r : Reg) (v : BitVec w.bits) : (s.setReg w r v).portLog = s.portLog := by cases w <;> rfl
@[simp] theorem State.setReg_pins (w : Width) (r : Reg) (v : BitVec w.bits) : (s.setReg w r v).pins = s.pins := by cases w <;> rfl
@[simp] theorem State.setReg_intaByte (w : Width) (r : Reg) (v : BitVec w.bits) : (s.setReg w r v).intaByte = s.intaByte := by cases w <;> rfl
@[simp] theorem State.setReg_acks (w : Width) (r : Reg) (v : BitVec w.bits) : (s.setReg w r v).acks = s.acks := by cases w <;> rfl
@[simp] theorem State.setReg_stale (w : Width) (r : Reg) (v : BitVec w.bits) : (s.setReg w r v).stale = s.stale := by cases w <;> rfl
@[simp] theorem State.setReg_reloc (w : Width) (r : Reg) (v : BitVec w.bits) : (s.setReg w r v).reloc = s.reloc := by cases w <;> rfl
@[simp] theorem State.setReg_chip (w : Width) (r : Reg) (v : BitVec w.bits) : (s.setReg w r v).chip = s.chip := by cases w <;> rfl
@[simp] theorem State.setReg_dma (w : Width) (r : Reg) (v : BitVec w.bits) : (s.setReg w r v).dma = s.dma := by cases w <;> rfl
@[simp] theorem State.setReg_timers (w : Width) (r : Reg) (v : BitVec w.bits) : (s.setReg w r v).timers = s.timers := by cases w <;> rfl
@[simp] theorem State.setReg_intc (w : Width) (r : Reg) (v : BitVec w.bits) : (s.setReg w r v).intc = s.intc := by cases w <;> rfl
@[simp] theorem State.setReg_agenda (w : Width) (r : Reg) (v : BitVec w.bits) : (s.setReg w r v).agenda = s.agenda := by cases w <;> rfl
@[simp] theorem State.setReg_free (w : Width) (r : Reg) (v : BitVec w.bits) : (s.setReg w r v).free = s.free := by cases w <;> rfl

/-! ### setChan -/

@[simp] theorem State.setChan_regs (c : Channel) (d : DmaChannel) : (s.setChan c d).regs = s.regs := rfl
@[simp] theorem State.setChan_segs (c : Channel) (d : DmaChannel) : (s.setChan c d).segs = s.segs := rfl
@[simp] theorem State.setChan_ip (c : Channel) (d : DmaChannel) : (s.setChan c d).ip = s.ip := rfl
@[simp] theorem State.setChan_flags (c : Channel) (d : DmaChannel) : (s.setChan c d).flags = s.flags := rfl
@[simp] theorem State.setChan_ipStart (c : Channel) (d : DmaChannel) : (s.setChan c d).ipStart = s.ipStart := rfl
@[simp] theorem State.setChan_pfx (c : Channel) (d : DmaChannel) : (s.setChan c d).pfx = s.pfx := rfl
@[simp] theorem State.setChan_activity (c : Channel) (d : DmaChannel) : (s.setChan c d).activity = s.activity := rfl
@[simp] theorem State.setChan_inhibit (c : Channel) (d : DmaChannel) : (s.setChan c d).inhibit = s.inhibit := rfl
@[simp] theorem State.setChan_inhibitInt (c : Channel) (d : DmaChannel) : (s.setChan c d).inhibitInt = s.inhibitInt := rfl
@[simp] theorem State.setChan_nmiLatch (c : Channel) (d : DmaChannel) : (s.setChan c d).nmiLatch = s.nmiLatch := rfl
@[simp] theorem State.setChan_due (c : Channel) (d : DmaChannel) : (s.setChan c d).due = s.due := rfl
@[simp] theorem State.setChan_mem (c : Channel) (d : DmaChannel) : (s.setChan c d).mem = s.mem := rfl
@[simp] theorem State.setChan_memMap (c : Channel) (d : DmaChannel) : (s.setChan c d).memMap = s.memMap := rfl
@[simp] theorem State.setChan_ioMap (c : Channel) (d : DmaChannel) : (s.setChan c d).ioMap = s.ioMap := rfl
@[simp] theorem State.setChan_memDevices (c : Channel) (d : DmaChannel) : (s.setChan c d).memDevices = s.memDevices := rfl
@[simp] theorem State.setChan_memLog (c : Channel) (d : DmaChannel) : (s.setChan c d).memLog = s.memLog := rfl
@[simp] theorem State.setChan_ports (c : Channel) (d : DmaChannel) : (s.setChan c d).ports = s.ports := rfl
@[simp] theorem State.setChan_portLog (c : Channel) (d : DmaChannel) : (s.setChan c d).portLog = s.portLog := rfl
@[simp] theorem State.setChan_pins (c : Channel) (d : DmaChannel) : (s.setChan c d).pins = s.pins := rfl
@[simp] theorem State.setChan_intaByte (c : Channel) (d : DmaChannel) : (s.setChan c d).intaByte = s.intaByte := rfl
@[simp] theorem State.setChan_acks (c : Channel) (d : DmaChannel) : (s.setChan c d).acks = s.acks := rfl
@[simp] theorem State.setChan_stale (c : Channel) (d : DmaChannel) : (s.setChan c d).stale = s.stale := rfl
@[simp] theorem State.setChan_reloc (c : Channel) (d : DmaChannel) : (s.setChan c d).reloc = s.reloc := rfl
@[simp] theorem State.setChan_chip (c : Channel) (d : DmaChannel) : (s.setChan c d).chip = s.chip := rfl
@[simp] theorem State.setChan_dma (c : Channel) (d : DmaChannel) : (s.setChan c d).dma = s.dma.set c d := rfl
@[simp] theorem State.setChan_timers (c : Channel) (d : DmaChannel) : (s.setChan c d).timers = s.timers := rfl
@[simp] theorem State.setChan_intc (c : Channel) (d : DmaChannel) : (s.setChan c d).intc = s.intc := rfl
@[simp] theorem State.setChan_agenda (c : Channel) (d : DmaChannel) : (s.setChan c d).agenda = s.agenda := rfl
@[simp] theorem State.setChan_free (c : Channel) (d : DmaChannel) : (s.setChan c d).free = s.free := rfl

/-! ### setTimer -/

@[simp] theorem State.setTimer_regs (k : TimerId) (t : Timer) : (s.setTimer k t).regs = s.regs := rfl
@[simp] theorem State.setTimer_segs (k : TimerId) (t : Timer) : (s.setTimer k t).segs = s.segs := rfl
@[simp] theorem State.setTimer_ip (k : TimerId) (t : Timer) : (s.setTimer k t).ip = s.ip := rfl
@[simp] theorem State.setTimer_flags (k : TimerId) (t : Timer) : (s.setTimer k t).flags = s.flags := rfl
@[simp] theorem State.setTimer_ipStart (k : TimerId) (t : Timer) : (s.setTimer k t).ipStart = s.ipStart := rfl
@[simp] theorem State.setTimer_pfx (k : TimerId) (t : Timer) : (s.setTimer k t).pfx = s.pfx := rfl
@[simp] theorem State.setTimer_activity (k : TimerId) (t : Timer) : (s.setTimer k t).activity = s.activity := rfl
@[simp] theorem State.setTimer_inhibit (k : TimerId) (t : Timer) : (s.setTimer k t).inhibit = s.inhibit := rfl
@[simp] theorem State.setTimer_inhibitInt (k : TimerId) (t : Timer) : (s.setTimer k t).inhibitInt = s.inhibitInt := rfl
@[simp] theorem State.setTimer_nmiLatch (k : TimerId) (t : Timer) : (s.setTimer k t).nmiLatch = s.nmiLatch := rfl
@[simp] theorem State.setTimer_due (k : TimerId) (t : Timer) : (s.setTimer k t).due = s.due := rfl
@[simp] theorem State.setTimer_mem (k : TimerId) (t : Timer) : (s.setTimer k t).mem = s.mem := rfl
@[simp] theorem State.setTimer_memMap (k : TimerId) (t : Timer) : (s.setTimer k t).memMap = s.memMap := rfl
@[simp] theorem State.setTimer_ioMap (k : TimerId) (t : Timer) : (s.setTimer k t).ioMap = s.ioMap := rfl
@[simp] theorem State.setTimer_memDevices (k : TimerId) (t : Timer) : (s.setTimer k t).memDevices = s.memDevices := rfl
@[simp] theorem State.setTimer_memLog (k : TimerId) (t : Timer) : (s.setTimer k t).memLog = s.memLog := rfl
@[simp] theorem State.setTimer_ports (k : TimerId) (t : Timer) : (s.setTimer k t).ports = s.ports := rfl
@[simp] theorem State.setTimer_portLog (k : TimerId) (t : Timer) : (s.setTimer k t).portLog = s.portLog := rfl
@[simp] theorem State.setTimer_pins (k : TimerId) (t : Timer) : (s.setTimer k t).pins = s.pins := rfl
@[simp] theorem State.setTimer_intaByte (k : TimerId) (t : Timer) : (s.setTimer k t).intaByte = s.intaByte := rfl
@[simp] theorem State.setTimer_acks (k : TimerId) (t : Timer) : (s.setTimer k t).acks = s.acks := rfl
@[simp] theorem State.setTimer_stale (k : TimerId) (t : Timer) : (s.setTimer k t).stale = s.stale := rfl
@[simp] theorem State.setTimer_reloc (k : TimerId) (t : Timer) : (s.setTimer k t).reloc = s.reloc := rfl
@[simp] theorem State.setTimer_chip (k : TimerId) (t : Timer) : (s.setTimer k t).chip = s.chip := rfl
@[simp] theorem State.setTimer_dma (k : TimerId) (t : Timer) : (s.setTimer k t).dma = s.dma := rfl
@[simp] theorem State.setTimer_timers (k : TimerId) (t : Timer) : (s.setTimer k t).timers = s.timers.set k t := rfl
@[simp] theorem State.setTimer_intc (k : TimerId) (t : Timer) : (s.setTimer k t).intc = s.intc := rfl
@[simp] theorem State.setTimer_agenda (k : TimerId) (t : Timer) : (s.setTimer k t).agenda = s.agenda := rfl
@[simp] theorem State.setTimer_free (k : TimerId) (t : Timer) : (s.setTimer k t).free = s.free := rfl

/-! ### logicFlags -/

@[simp] theorem State.logicFlags_regs {n : Nat} (r : BitVec n) : (s.logicFlags r).regs = s.regs := rfl
@[simp] theorem State.logicFlags_segs {n : Nat} (r : BitVec n) : (s.logicFlags r).segs = s.segs := rfl
@[simp] theorem State.logicFlags_ip {n : Nat} (r : BitVec n) : (s.logicFlags r).ip = s.ip := rfl
@[simp] theorem State.logicFlags_flags {n : Nat} (r : BitVec n) : (s.logicFlags r).flags = { s.flags.szp r with cf := false, ofl := false, af := s.freeBit 0 } := rfl
@[simp] theorem State.logicFlags_ipStart {n : Nat} (r : BitVec n) : (s.logicFlags r).ipStart = s.ipStart := rfl
@[simp] theorem State.logicFlags_pfx {n : Nat} (r : BitVec n) : (s.logicFlags r).pfx = s.pfx := rfl
@[simp] theorem State.logicFlags_activity {n : Nat} (r : BitVec n) : (s.logicFlags r).activity = s.activity := rfl
@[simp] theorem State.logicFlags_inhibit {n : Nat} (r : BitVec n) : (s.logicFlags r).inhibit = s.inhibit := rfl
@[simp] theorem State.logicFlags_inhibitInt {n : Nat} (r : BitVec n) : (s.logicFlags r).inhibitInt = s.inhibitInt := rfl
@[simp] theorem State.logicFlags_nmiLatch {n : Nat} (r : BitVec n) : (s.logicFlags r).nmiLatch = s.nmiLatch := rfl
@[simp] theorem State.logicFlags_due {n : Nat} (r : BitVec n) : (s.logicFlags r).due = s.due := rfl
@[simp] theorem State.logicFlags_mem {n : Nat} (r : BitVec n) : (s.logicFlags r).mem = s.mem := rfl
@[simp] theorem State.logicFlags_memMap {n : Nat} (r : BitVec n) : (s.logicFlags r).memMap = s.memMap := rfl
@[simp] theorem State.logicFlags_ioMap {n : Nat} (r : BitVec n) : (s.logicFlags r).ioMap = s.ioMap := rfl
@[simp] theorem State.logicFlags_memDevices {n : Nat} (r : BitVec n) : (s.logicFlags r).memDevices = s.memDevices := rfl
@[simp] theorem State.logicFlags_memLog {n : Nat} (r : BitVec n) : (s.logicFlags r).memLog = s.memLog := rfl
@[simp] theorem State.logicFlags_ports {n : Nat} (r : BitVec n) : (s.logicFlags r).ports = s.ports := rfl
@[simp] theorem State.logicFlags_portLog {n : Nat} (r : BitVec n) : (s.logicFlags r).portLog = s.portLog := rfl
@[simp] theorem State.logicFlags_pins {n : Nat} (r : BitVec n) : (s.logicFlags r).pins = s.pins := rfl
@[simp] theorem State.logicFlags_intaByte {n : Nat} (r : BitVec n) : (s.logicFlags r).intaByte = s.intaByte := rfl
@[simp] theorem State.logicFlags_acks {n : Nat} (r : BitVec n) : (s.logicFlags r).acks = s.acks := rfl
@[simp] theorem State.logicFlags_stale {n : Nat} (r : BitVec n) : (s.logicFlags r).stale = s.stale := rfl
@[simp] theorem State.logicFlags_reloc {n : Nat} (r : BitVec n) : (s.logicFlags r).reloc = s.reloc := rfl
@[simp] theorem State.logicFlags_chip {n : Nat} (r : BitVec n) : (s.logicFlags r).chip = s.chip := rfl
@[simp] theorem State.logicFlags_dma {n : Nat} (r : BitVec n) : (s.logicFlags r).dma = s.dma := rfl
@[simp] theorem State.logicFlags_timers {n : Nat} (r : BitVec n) : (s.logicFlags r).timers = s.timers := rfl
@[simp] theorem State.logicFlags_intc {n : Nat} (r : BitVec n) : (s.logicFlags r).intc = s.intc := rfl
@[simp] theorem State.logicFlags_agenda {n : Nat} (r : BitVec n) : (s.logicFlags r).agenda = s.agenda := rfl
@[simp] theorem State.logicFlags_free {n : Nat} (r : BitVec n) : (s.logicFlags r).free = s.free + 1 := rfl

/-! ### advance -/

@[simp] theorem State.advance_regs (n : Nat) : (s.advance n).regs = s.regs := rfl
@[simp] theorem State.advance_segs (n : Nat) : (s.advance n).segs = s.segs := rfl
@[simp] theorem State.advance_ip (n : Nat) : (s.advance n).ip = s.ip + BitVec.ofNat 16 n := rfl
@[simp] theorem State.advance_flags (n : Nat) : (s.advance n).flags = s.flags := rfl
@[simp] theorem State.advance_ipStart (n : Nat) : (s.advance n).ipStart = s.ipStart := rfl
@[simp] theorem State.advance_pfx (n : Nat) : (s.advance n).pfx = s.pfx := rfl
@[simp] theorem State.advance_activity (n : Nat) : (s.advance n).activity = s.activity := rfl
@[simp] theorem State.advance_inhibit (n : Nat) : (s.advance n).inhibit = s.inhibit := rfl
@[simp] theorem State.advance_inhibitInt (n : Nat) : (s.advance n).inhibitInt = s.inhibitInt := rfl
@[simp] theorem State.advance_nmiLatch (n : Nat) : (s.advance n).nmiLatch = s.nmiLatch := rfl
@[simp] theorem State.advance_due (n : Nat) : (s.advance n).due = s.due := rfl
@[simp] theorem State.advance_mem (n : Nat) : (s.advance n).mem = s.mem := rfl
@[simp] theorem State.advance_memMap (n : Nat) : (s.advance n).memMap = s.memMap := rfl
@[simp] theorem State.advance_ioMap (n : Nat) : (s.advance n).ioMap = s.ioMap := rfl
@[simp] theorem State.advance_memDevices (n : Nat) : (s.advance n).memDevices = s.memDevices := rfl
@[simp] theorem State.advance_memLog (n : Nat) : (s.advance n).memLog = s.memLog := rfl
@[simp] theorem State.advance_ports (n : Nat) : (s.advance n).ports = s.ports := rfl
@[simp] theorem State.advance_portLog (n : Nat) : (s.advance n).portLog = s.portLog := rfl
@[simp] theorem State.advance_pins (n : Nat) : (s.advance n).pins = s.pins := rfl
@[simp] theorem State.advance_intaByte (n : Nat) : (s.advance n).intaByte = s.intaByte := rfl
@[simp] theorem State.advance_acks (n : Nat) : (s.advance n).acks = s.acks := rfl
@[simp] theorem State.advance_stale (n : Nat) : (s.advance n).stale = s.stale := rfl
@[simp] theorem State.advance_reloc (n : Nat) : (s.advance n).reloc = s.reloc := rfl
@[simp] theorem State.advance_chip (n : Nat) : (s.advance n).chip = s.chip := rfl
@[simp] theorem State.advance_dma (n : Nat) : (s.advance n).dma = s.dma := rfl
@[simp] theorem State.advance_timers (n : Nat) : (s.advance n).timers = s.timers := rfl
@[simp] theorem State.advance_intc (n : Nat) : (s.advance n).intc = s.intc := rfl
@[simp] theorem State.advance_agenda (n : Nat) : (s.advance n).agenda = s.agenda := rfl
@[simp] theorem State.advance_free (n : Nat) : (s.advance n).free = s.free := rfl

/-! ### setAgenda -/

@[simp] theorem State.setAgenda_regs (l : List Turn) : (s.setAgenda l).regs = s.regs := rfl
@[simp] theorem State.setAgenda_segs (l : List Turn) : (s.setAgenda l).segs = s.segs := rfl
@[simp] theorem State.setAgenda_ip (l : List Turn) : (s.setAgenda l).ip = s.ip := rfl
@[simp] theorem State.setAgenda_flags (l : List Turn) : (s.setAgenda l).flags = s.flags := rfl
@[simp] theorem State.setAgenda_ipStart (l : List Turn) : (s.setAgenda l).ipStart = s.ipStart := rfl
@[simp] theorem State.setAgenda_pfx (l : List Turn) : (s.setAgenda l).pfx = s.pfx := rfl
@[simp] theorem State.setAgenda_activity (l : List Turn) : (s.setAgenda l).activity = s.activity := rfl
@[simp] theorem State.setAgenda_inhibit (l : List Turn) : (s.setAgenda l).inhibit = s.inhibit := rfl
@[simp] theorem State.setAgenda_inhibitInt (l : List Turn) : (s.setAgenda l).inhibitInt = s.inhibitInt := rfl
@[simp] theorem State.setAgenda_nmiLatch (l : List Turn) : (s.setAgenda l).nmiLatch = s.nmiLatch := rfl
@[simp] theorem State.setAgenda_due (l : List Turn) : (s.setAgenda l).due = s.due := rfl
@[simp] theorem State.setAgenda_mem (l : List Turn) : (s.setAgenda l).mem = s.mem := rfl
@[simp] theorem State.setAgenda_memMap (l : List Turn) : (s.setAgenda l).memMap = s.memMap := rfl
@[simp] theorem State.setAgenda_ioMap (l : List Turn) : (s.setAgenda l).ioMap = s.ioMap := rfl
@[simp] theorem State.setAgenda_memDevices (l : List Turn) : (s.setAgenda l).memDevices = s.memDevices := rfl
@[simp] theorem State.setAgenda_memLog (l : List Turn) : (s.setAgenda l).memLog = s.memLog := rfl
@[simp] theorem State.setAgenda_ports (l : List Turn) : (s.setAgenda l).ports = s.ports := rfl
@[simp] theorem State.setAgenda_portLog (l : List Turn) : (s.setAgenda l).portLog = s.portLog := rfl
@[simp] theorem State.setAgenda_pins (l : List Turn) : (s.setAgenda l).pins = s.pins := rfl
@[simp] theorem State.setAgenda_intaByte (l : List Turn) : (s.setAgenda l).intaByte = s.intaByte := rfl
@[simp] theorem State.setAgenda_acks (l : List Turn) : (s.setAgenda l).acks = s.acks := rfl
@[simp] theorem State.setAgenda_stale (l : List Turn) : (s.setAgenda l).stale = s.stale := rfl
@[simp] theorem State.setAgenda_reloc (l : List Turn) : (s.setAgenda l).reloc = s.reloc := rfl
@[simp] theorem State.setAgenda_chip (l : List Turn) : (s.setAgenda l).chip = s.chip := rfl
@[simp] theorem State.setAgenda_dma (l : List Turn) : (s.setAgenda l).dma = s.dma := rfl
@[simp] theorem State.setAgenda_timers (l : List Turn) : (s.setAgenda l).timers = s.timers := rfl
@[simp] theorem State.setAgenda_intc (l : List Turn) : (s.setAgenda l).intc = s.intc := rfl
@[simp] theorem State.setAgenda_agenda (l : List Turn) : (s.setAgenda l).agenda = l := rfl
@[simp] theorem State.setAgenda_free (l : List Turn) : (s.setAgenda l).free = s.free := rfl

/-! ### takeBus -/

@[simp] theorem State.takeBus_regs : (s.takeBus).regs = s.regs := rfl
@[simp] theorem State.takeBus_segs : (s.takeBus).segs = s.segs := rfl
@[simp] theorem State.takeBus_ip : (s.takeBus).ip = s.ip := rfl
@[simp] theorem State.takeBus_flags : (s.takeBus).flags = s.flags := rfl
@[simp] theorem State.takeBus_ipStart : (s.takeBus).ipStart = s.ipStart := rfl
@[simp] theorem State.takeBus_pfx : (s.takeBus).pfx = s.pfx := rfl
@[simp] theorem State.takeBus_activity : (s.takeBus).activity = s.activity := rfl
@[simp] theorem State.takeBus_inhibit : (s.takeBus).inhibit = s.inhibit := rfl
@[simp] theorem State.takeBus_inhibitInt : (s.takeBus).inhibitInt = s.inhibitInt := rfl
@[simp] theorem State.takeBus_nmiLatch : (s.takeBus).nmiLatch = s.nmiLatch := rfl
@[simp] theorem State.takeBus_due : (s.takeBus).due = s.due := rfl
@[simp] theorem State.takeBus_mem : (s.takeBus).mem = s.mem := rfl
@[simp] theorem State.takeBus_memMap : (s.takeBus).memMap = s.memMap := rfl
@[simp] theorem State.takeBus_ioMap : (s.takeBus).ioMap = s.ioMap := rfl
@[simp] theorem State.takeBus_memDevices : (s.takeBus).memDevices = s.memDevices := rfl
@[simp] theorem State.takeBus_memLog : (s.takeBus).memLog = s.memLog := rfl
@[simp] theorem State.takeBus_ports : (s.takeBus).ports = s.ports := rfl
@[simp] theorem State.takeBus_portLog : (s.takeBus).portLog = s.portLog := rfl
@[simp] theorem State.takeBus_pins : (s.takeBus).pins = s.pins := rfl
@[simp] theorem State.takeBus_intaByte : (s.takeBus).intaByte = s.intaByte := rfl
@[simp] theorem State.takeBus_acks : (s.takeBus).acks = s.acks := rfl
@[simp] theorem State.takeBus_stale : (s.takeBus).stale = s.stale := rfl
@[simp] theorem State.takeBus_reloc : (s.takeBus).reloc = s.reloc := rfl
@[simp] theorem State.takeBus_chip : (s.takeBus).chip = s.chip := rfl
@[simp] theorem State.takeBus_dma : (s.takeBus).dma = { s.dma with yielded := false } := rfl
@[simp] theorem State.takeBus_timers : (s.takeBus).timers = s.timers := rfl
@[simp] theorem State.takeBus_intc : (s.takeBus).intc = s.intc := rfl
@[simp] theorem State.takeBus_agenda : (s.takeBus).agenda = s.agenda := rfl
@[simp] theorem State.takeBus_free : (s.takeBus).free = s.free := rfl

/-! ### mulFlags -/

@[simp] theorem State.mulFlags_regs (wide : Bool) : (s.mulFlags wide).regs = s.regs := rfl
@[simp] theorem State.mulFlags_segs (wide : Bool) : (s.mulFlags wide).segs = s.segs := rfl
@[simp] theorem State.mulFlags_ip (wide : Bool) : (s.mulFlags wide).ip = s.ip := rfl
@[simp] theorem State.mulFlags_flags (wide : Bool) : (s.mulFlags wide).flags = { s.flags with cf := wide, ofl := wide, sf := s.freeBit 0, zf := s.freeBit 1, af := s.freeBit 2, pf := s.freeBit 3 } := rfl
@[simp] theorem State.mulFlags_ipStart (wide : Bool) : (s.mulFlags wide).ipStart = s.ipStart := rfl
@[simp] theorem State.mulFlags_pfx (wide : Bool) : (s.mulFlags wide).pfx = s.pfx := rfl
@[simp] theorem State.mulFlags_activity (wide : Bool) : (s.mulFlags wide).activity = s.activity := rfl
@[simp] theorem State.mulFlags_inhibit (wide : Bool) : (s.mulFlags wide).inhibit = s.inhibit := rfl
@[simp] theorem State.mulFlags_inhibitInt (wide : Bool) : (s.mulFlags wide).inhibitInt = s.inhibitInt := rfl
@[simp] theorem State.mulFlags_nmiLatch (wide : Bool) : (s.mulFlags wide).nmiLatch = s.nmiLatch := rfl
@[simp] theorem State.mulFlags_due (wide : Bool) : (s.mulFlags wide).due = s.due := rfl
@[simp] theorem State.mulFlags_mem (wide : Bool) : (s.mulFlags wide).mem = s.mem := rfl
@[simp] theorem State.mulFlags_memMap (wide : Bool) : (s.mulFlags wide).memMap = s.memMap := rfl
@[simp] theorem State.mulFlags_ioMap (wide : Bool) : (s.mulFlags wide).ioMap = s.ioMap := rfl
@[simp] theorem State.mulFlags_memDevices (wide : Bool) : (s.mulFlags wide).memDevices = s.memDevices := rfl
@[simp] theorem State.mulFlags_memLog (wide : Bool) : (s.mulFlags wide).memLog = s.memLog := rfl
@[simp] theorem State.mulFlags_ports (wide : Bool) : (s.mulFlags wide).ports = s.ports := rfl
@[simp] theorem State.mulFlags_portLog (wide : Bool) : (s.mulFlags wide).portLog = s.portLog := rfl
@[simp] theorem State.mulFlags_pins (wide : Bool) : (s.mulFlags wide).pins = s.pins := rfl
@[simp] theorem State.mulFlags_intaByte (wide : Bool) : (s.mulFlags wide).intaByte = s.intaByte := rfl
@[simp] theorem State.mulFlags_acks (wide : Bool) : (s.mulFlags wide).acks = s.acks := rfl
@[simp] theorem State.mulFlags_stale (wide : Bool) : (s.mulFlags wide).stale = s.stale := rfl
@[simp] theorem State.mulFlags_reloc (wide : Bool) : (s.mulFlags wide).reloc = s.reloc := rfl
@[simp] theorem State.mulFlags_chip (wide : Bool) : (s.mulFlags wide).chip = s.chip := rfl
@[simp] theorem State.mulFlags_dma (wide : Bool) : (s.mulFlags wide).dma = s.dma := rfl
@[simp] theorem State.mulFlags_timers (wide : Bool) : (s.mulFlags wide).timers = s.timers := rfl
@[simp] theorem State.mulFlags_intc (wide : Bool) : (s.mulFlags wide).intc = s.intc := rfl
@[simp] theorem State.mulFlags_agenda (wide : Bool) : (s.mulFlags wide).agenda = s.agenda := rfl
@[simp] theorem State.mulFlags_free (wide : Bool) : (s.mulFlags wide).free = s.free + 4 := rfl

/-! ### divFlags -/

@[simp] theorem State.divFlags_regs : (s.divFlags).regs = s.regs := rfl
@[simp] theorem State.divFlags_segs : (s.divFlags).segs = s.segs := rfl
@[simp] theorem State.divFlags_ip : (s.divFlags).ip = s.ip := rfl
@[simp] theorem State.divFlags_flags : (s.divFlags).flags = { s.flags with cf := s.freeBit 0, pf := s.freeBit 1, af := s.freeBit 2, zf := s.freeBit 3, sf := s.freeBit 4, ofl := s.freeBit 5 } := rfl
@[simp] theorem State.divFlags_ipStart : (s.divFlags).ipStart = s.ipStart := rfl
@[simp] theorem State.divFlags_pfx : (s.divFlags).pfx = s.pfx := rfl
@[simp] theorem State.divFlags_activity : (s.divFlags).activity = s.activity := rfl
@[simp] theorem State.divFlags_inhibit : (s.divFlags).inhibit = s.inhibit := rfl
@[simp] theorem State.divFlags_inhibitInt : (s.divFlags).inhibitInt = s.inhibitInt := rfl
@[simp] theorem State.divFlags_nmiLatch : (s.divFlags).nmiLatch = s.nmiLatch := rfl
@[simp] theorem State.divFlags_due : (s.divFlags).due = s.due := rfl
@[simp] theorem State.divFlags_mem : (s.divFlags).mem = s.mem := rfl
@[simp] theorem State.divFlags_memMap : (s.divFlags).memMap = s.memMap := rfl
@[simp] theorem State.divFlags_ioMap : (s.divFlags).ioMap = s.ioMap := rfl
@[simp] theorem State.divFlags_memDevices : (s.divFlags).memDevices = s.memDevices := rfl
@[simp] theorem State.divFlags_memLog : (s.divFlags).memLog = s.memLog := rfl
@[simp] theorem State.divFlags_ports : (s.divFlags).ports = s.ports := rfl
@[simp] theorem State.divFlags_portLog : (s.divFlags).portLog = s.portLog := rfl
@[simp] theorem State.divFlags_pins : (s.divFlags).pins = s.pins := rfl
@[simp] theorem State.divFlags_intaByte : (s.divFlags).intaByte = s.intaByte := rfl
@[simp] theorem State.divFlags_acks : (s.divFlags).acks = s.acks := rfl
@[simp] theorem State.divFlags_stale : (s.divFlags).stale = s.stale := rfl
@[simp] theorem State.divFlags_reloc : (s.divFlags).reloc = s.reloc := rfl
@[simp] theorem State.divFlags_chip : (s.divFlags).chip = s.chip := rfl
@[simp] theorem State.divFlags_dma : (s.divFlags).dma = s.dma := rfl
@[simp] theorem State.divFlags_timers : (s.divFlags).timers = s.timers := rfl
@[simp] theorem State.divFlags_intc : (s.divFlags).intc = s.intc := rfl
@[simp] theorem State.divFlags_agenda : (s.divFlags).agenda = s.agenda := rfl
@[simp] theorem State.divFlags_free : (s.divFlags).free = s.free + 6 := rfl

/-! ### asciiFlags -/

@[simp] theorem State.asciiFlags_regs (adj : Bool) : (s.asciiFlags adj).regs = s.regs := rfl
@[simp] theorem State.asciiFlags_segs (adj : Bool) : (s.asciiFlags adj).segs = s.segs := rfl
@[simp] theorem State.asciiFlags_ip (adj : Bool) : (s.asciiFlags adj).ip = s.ip := rfl
@[simp] theorem State.asciiFlags_flags (adj : Bool) : (s.asciiFlags adj).flags = { s.flags with cf := adj, af := adj, ofl := s.freeBit 0, sf := s.freeBit 1, zf := s.freeBit 2, pf := s.freeBit 3 } := rfl
@[simp] theorem State.asciiFlags_ipStart (adj : Bool) : (s.asciiFlags adj).ipStart = s.ipStart := rfl
@[simp] theorem State.asciiFlags_pfx (adj : Bool) : (s.asciiFlags adj).pfx = s.pfx := rfl
@[simp] theorem State.asciiFlags_activity (adj : Bool) : (s.asciiFlags adj).activity = s.activity := rfl
@[simp] theorem State.asciiFlags_inhibit (adj : Bool) : (s.asciiFlags adj).inhibit = s.inhibit := rfl
@[simp] theorem State.asciiFlags_inhibitInt (adj : Bool) : (s.asciiFlags adj).inhibitInt = s.inhibitInt := rfl
@[simp] theorem State.asciiFlags_nmiLatch (adj : Bool) : (s.asciiFlags adj).nmiLatch = s.nmiLatch := rfl
@[simp] theorem State.asciiFlags_due (adj : Bool) : (s.asciiFlags adj).due = s.due := rfl
@[simp] theorem State.asciiFlags_mem (adj : Bool) : (s.asciiFlags adj).mem = s.mem := rfl
@[simp] theorem State.asciiFlags_memMap (adj : Bool) : (s.asciiFlags adj).memMap = s.memMap := rfl
@[simp] theorem State.asciiFlags_ioMap (adj : Bool) : (s.asciiFlags adj).ioMap = s.ioMap := rfl
@[simp] theorem State.asciiFlags_memDevices (adj : Bool) : (s.asciiFlags adj).memDevices = s.memDevices := rfl
@[simp] theorem State.asciiFlags_memLog (adj : Bool) : (s.asciiFlags adj).memLog = s.memLog := rfl
@[simp] theorem State.asciiFlags_ports (adj : Bool) : (s.asciiFlags adj).ports = s.ports := rfl
@[simp] theorem State.asciiFlags_portLog (adj : Bool) : (s.asciiFlags adj).portLog = s.portLog := rfl
@[simp] theorem State.asciiFlags_pins (adj : Bool) : (s.asciiFlags adj).pins = s.pins := rfl
@[simp] theorem State.asciiFlags_intaByte (adj : Bool) : (s.asciiFlags adj).intaByte = s.intaByte := rfl
@[simp] theorem State.asciiFlags_acks (adj : Bool) : (s.asciiFlags adj).acks = s.acks := rfl
@[simp] theorem State.asciiFlags_stale (adj : Bool) : (s.asciiFlags adj).stale = s.stale := rfl
@[simp] theorem State.asciiFlags_reloc (adj : Bool) : (s.asciiFlags adj).reloc = s.reloc := rfl
@[simp] theorem State.asciiFlags_chip (adj : Bool) : (s.asciiFlags adj).chip = s.chip := rfl
@[simp] theorem State.asciiFlags_dma (adj : Bool) : (s.asciiFlags adj).dma = s.dma := rfl
@[simp] theorem State.asciiFlags_timers (adj : Bool) : (s.asciiFlags adj).timers = s.timers := rfl
@[simp] theorem State.asciiFlags_intc (adj : Bool) : (s.asciiFlags adj).intc = s.intc := rfl
@[simp] theorem State.asciiFlags_agenda (adj : Bool) : (s.asciiFlags adj).agenda = s.agenda := rfl
@[simp] theorem State.asciiFlags_free (adj : Bool) : (s.asciiFlags adj).free = s.free + 4 := rfl

/-! ### decimalFlags -/

@[simp] theorem State.decimalFlags_regs (af cf : Bool) (al : Byte) : (s.decimalFlags af cf al).regs = s.regs := rfl
@[simp] theorem State.decimalFlags_segs (af cf : Bool) (al : Byte) : (s.decimalFlags af cf al).segs = s.segs := rfl
@[simp] theorem State.decimalFlags_ip (af cf : Bool) (al : Byte) : (s.decimalFlags af cf al).ip = s.ip := rfl
@[simp] theorem State.decimalFlags_flags (af cf : Bool) (al : Byte) : (s.decimalFlags af cf al).flags = { s.flags.szp al with cf := cf, af := af, ofl := s.freeBit 0 } := rfl
@[simp] theorem State.decimalFlags_ipStart (af cf : Bool) (al : Byte) : (s.decimalFlags af cf al).ipStart = s.ipStart := rfl
@[simp] theorem State.decimalFlags_pfx (af cf : Bool) (al : Byte) : (s.decimalFlags af cf al).pfx = s.pfx := rfl
@[simp] theorem State.decimalFlags_activity (af cf : Bool) (al : Byte) : (s.decimalFlags af cf al).activity = s.activity := rfl
@[simp] theorem State.decimalFlags_inhibit (af cf : Bool) (al : Byte) : (s.decimalFlags af cf al).inhibit = s.inhibit := rfl
@[simp] theorem State.decimalFlags_inhibitInt (af cf : Bool) (al : Byte) : (s.decimalFlags af cf al).inhibitInt = s.inhibitInt := rfl
@[simp] theorem State.decimalFlags_nmiLatch (af cf : Bool) (al : Byte) : (s.decimalFlags af cf al).nmiLatch = s.nmiLatch := rfl
@[simp] theorem State.decimalFlags_due (af cf : Bool) (al : Byte) : (s.decimalFlags af cf al).due = s.due := rfl
@[simp] theorem State.decimalFlags_mem (af cf : Bool) (al : Byte) : (s.decimalFlags af cf al).mem = s.mem := rfl
@[simp] theorem State.decimalFlags_memMap (af cf : Bool) (al : Byte) : (s.decimalFlags af cf al).memMap = s.memMap := rfl
@[simp] theorem State.decimalFlags_ioMap (af cf : Bool) (al : Byte) : (s.decimalFlags af cf al).ioMap = s.ioMap := rfl
@[simp] theorem State.decimalFlags_memDevices (af cf : Bool) (al : Byte) : (s.decimalFlags af cf al).memDevices = s.memDevices := rfl
@[simp] theorem State.decimalFlags_memLog (af cf : Bool) (al : Byte) : (s.decimalFlags af cf al).memLog = s.memLog := rfl
@[simp] theorem State.decimalFlags_ports (af cf : Bool) (al : Byte) : (s.decimalFlags af cf al).ports = s.ports := rfl
@[simp] theorem State.decimalFlags_portLog (af cf : Bool) (al : Byte) : (s.decimalFlags af cf al).portLog = s.portLog := rfl
@[simp] theorem State.decimalFlags_pins (af cf : Bool) (al : Byte) : (s.decimalFlags af cf al).pins = s.pins := rfl
@[simp] theorem State.decimalFlags_intaByte (af cf : Bool) (al : Byte) : (s.decimalFlags af cf al).intaByte = s.intaByte := rfl
@[simp] theorem State.decimalFlags_acks (af cf : Bool) (al : Byte) : (s.decimalFlags af cf al).acks = s.acks := rfl
@[simp] theorem State.decimalFlags_stale (af cf : Bool) (al : Byte) : (s.decimalFlags af cf al).stale = s.stale := rfl
@[simp] theorem State.decimalFlags_reloc (af cf : Bool) (al : Byte) : (s.decimalFlags af cf al).reloc = s.reloc := rfl
@[simp] theorem State.decimalFlags_chip (af cf : Bool) (al : Byte) : (s.decimalFlags af cf al).chip = s.chip := rfl
@[simp] theorem State.decimalFlags_dma (af cf : Bool) (al : Byte) : (s.decimalFlags af cf al).dma = s.dma := rfl
@[simp] theorem State.decimalFlags_timers (af cf : Bool) (al : Byte) : (s.decimalFlags af cf al).timers = s.timers := rfl
@[simp] theorem State.decimalFlags_intc (af cf : Bool) (al : Byte) : (s.decimalFlags af cf al).intc = s.intc := rfl
@[simp] theorem State.decimalFlags_agenda (af cf : Bool) (al : Byte) : (s.decimalFlags af cf al).agenda = s.agenda := rfl
@[simp] theorem State.decimalFlags_free (af cf : Bool) (al : Byte) : (s.decimalFlags af cf al).free = s.free + 1 := rfl

/-! ### asciiMulFlags -/

@[simp] theorem State.asciiMulFlags_regs (al : Byte) : (s.asciiMulFlags al).regs = s.regs := rfl
@[simp] theorem State.asciiMulFlags_segs (al : Byte) : (s.asciiMulFlags al).segs = s.segs := rfl
@[simp] theorem State.asciiMulFlags_ip (al : Byte) : (s.asciiMulFlags al).ip = s.ip := rfl
@[simp] theorem State.asciiMulFlags_flags (al : Byte) : (s.asciiMulFlags al).flags = { s.flags.szp al with ofl := s.freeBit 0, af := s.freeBit 1, cf := s.freeBit 2 } := rfl
@[simp] theorem State.asciiMulFlags_ipStart (al : Byte) : (s.asciiMulFlags al).ipStart = s.ipStart := rfl
@[simp] theorem State.asciiMulFlags_pfx (al : Byte) : (s.asciiMulFlags al).pfx = s.pfx := rfl
@[simp] theorem State.asciiMulFlags_activity (al : Byte) : (s.asciiMulFlags al).activity = s.activity := rfl
@[simp] theorem State.asciiMulFlags_inhibit (al : Byte) : (s.asciiMulFlags al).inhibit = s.inhibit := rfl
@[simp] theorem State.asciiMulFlags_inhibitInt (al : Byte) : (s.asciiMulFlags al).inhibitInt = s.inhibitInt := rfl
@[simp] theorem State.asciiMulFlags_nmiLatch (al : Byte) : (s.asciiMulFlags al).nmiLatch = s.nmiLatch := rfl
@[simp] theorem State.asciiMulFlags_due (al : Byte) : (s.asciiMulFlags al).due = s.due := rfl
@[simp] theorem State.asciiMulFlags_mem (al : Byte) : (s.asciiMulFlags al).mem = s.mem := rfl
@[simp] theorem State.asciiMulFlags_memMap (al : Byte) : (s.asciiMulFlags al).memMap = s.memMap := rfl
@[simp] theorem State.asciiMulFlags_ioMap (al : Byte) : (s.asciiMulFlags al).ioMap = s.ioMap := rfl
@[simp] theorem State.asciiMulFlags_memDevices (al : Byte) : (s.asciiMulFlags al).memDevices = s.memDevices := rfl
@[simp] theorem State.asciiMulFlags_memLog (al : Byte) : (s.asciiMulFlags al).memLog = s.memLog := rfl
@[simp] theorem State.asciiMulFlags_ports (al : Byte) : (s.asciiMulFlags al).ports = s.ports := rfl
@[simp] theorem State.asciiMulFlags_portLog (al : Byte) : (s.asciiMulFlags al).portLog = s.portLog := rfl
@[simp] theorem State.asciiMulFlags_pins (al : Byte) : (s.asciiMulFlags al).pins = s.pins := rfl
@[simp] theorem State.asciiMulFlags_intaByte (al : Byte) : (s.asciiMulFlags al).intaByte = s.intaByte := rfl
@[simp] theorem State.asciiMulFlags_acks (al : Byte) : (s.asciiMulFlags al).acks = s.acks := rfl
@[simp] theorem State.asciiMulFlags_stale (al : Byte) : (s.asciiMulFlags al).stale = s.stale := rfl
@[simp] theorem State.asciiMulFlags_reloc (al : Byte) : (s.asciiMulFlags al).reloc = s.reloc := rfl
@[simp] theorem State.asciiMulFlags_chip (al : Byte) : (s.asciiMulFlags al).chip = s.chip := rfl
@[simp] theorem State.asciiMulFlags_dma (al : Byte) : (s.asciiMulFlags al).dma = s.dma := rfl
@[simp] theorem State.asciiMulFlags_timers (al : Byte) : (s.asciiMulFlags al).timers = s.timers := rfl
@[simp] theorem State.asciiMulFlags_intc (al : Byte) : (s.asciiMulFlags al).intc = s.intc := rfl
@[simp] theorem State.asciiMulFlags_agenda (al : Byte) : (s.asciiMulFlags al).agenda = s.agenda := rfl
@[simp] theorem State.asciiMulFlags_free (al : Byte) : (s.asciiMulFlags al).free = s.free + 3 := rfl

/-! ### shiftFlags -/

@[simp] theorem State.shiftFlags_regs {n : Nat} (op : ShiftOp) (k : Nat) (x r : BitVec n) (c : Bool) : (s.shiftFlags op k x r c).regs = s.regs := rfl
@[simp] theorem State.shiftFlags_segs {n : Nat} (op : ShiftOp) (k : Nat) (x r : BitVec n) (c : Bool) : (s.shiftFlags op k x r c).segs = s.segs := rfl
@[simp] theorem State.shiftFlags_ip {n : Nat} (op : ShiftOp) (k : Nat) (x r : BitVec n) (c : Bool) : (s.shiftFlags op k x r c).ip = s.ip := rfl
@[simp] theorem State.shiftFlags_ipStart {n : Nat} (op : ShiftOp) (k : Nat) (x r : BitVec n) (c : Bool) : (s.shiftFlags op k x r c).ipStart = s.ipStart := rfl
@[simp] theorem State.shiftFlags_pfx {n : Nat} (op : ShiftOp) (k : Nat) (x r : BitVec n) (c : Bool) : (s.shiftFlags op k x r c).pfx = s.pfx := rfl
@[simp] theorem State.shiftFlags_activity {n : Nat} (op : ShiftOp) (k : Nat) (x r : BitVec n) (c : Bool) : (s.shiftFlags op k x r c).activity = s.activity := rfl
@[simp] theorem State.shiftFlags_inhibit {n : Nat} (op : ShiftOp) (k : Nat) (x r : BitVec n) (c : Bool) : (s.shiftFlags op k x r c).inhibit = s.inhibit := rfl
@[simp] theorem State.shiftFlags_inhibitInt {n : Nat} (op : ShiftOp) (k : Nat) (x r : BitVec n) (c : Bool) : (s.shiftFlags op k x r c).inhibitInt = s.inhibitInt := rfl
@[simp] theorem State.shiftFlags_nmiLatch {n : Nat} (op : ShiftOp) (k : Nat) (x r : BitVec n) (c : Bool) : (s.shiftFlags op k x r c).nmiLatch = s.nmiLatch := rfl
@[simp] theorem State.shiftFlags_due {n : Nat} (op : ShiftOp) (k : Nat) (x r : BitVec n) (c : Bool) : (s.shiftFlags op k x r c).due = s.due := rfl
@[simp] theorem State.shiftFlags_mem {n : Nat} (op : ShiftOp) (k : Nat) (x r : BitVec n) (c : Bool) : (s.shiftFlags op k x r c).mem = s.mem := rfl
@[simp] theorem State.shiftFlags_memMap {n : Nat} (op : ShiftOp) (k : Nat) (x r : BitVec n) (c : Bool) : (s.shiftFlags op k x r c).memMap = s.memMap := rfl
@[simp] theorem State.shiftFlags_ioMap {n : Nat} (op : ShiftOp) (k : Nat) (x r : BitVec n) (c : Bool) : (s.shiftFlags op k x r c).ioMap = s.ioMap := rfl
@[simp] theorem State.shiftFlags_memDevices {n : Nat} (op : ShiftOp) (k : Nat) (x r : BitVec n) (c : Bool) : (s.shiftFlags op k x r c).memDevices = s.memDevices := rfl
@[simp] theorem State.shiftFlags_memLog {n : Nat} (op : ShiftOp) (k : Nat) (x r : BitVec n) (c : Bool) : (s.shiftFlags op k x r c).memLog = s.memLog := rfl
@[simp] theorem State.shiftFlags_ports {n : Nat} (op : ShiftOp) (k : Nat) (x r : BitVec n) (c : Bool) : (s.shiftFlags op k x r c).ports = s.ports := rfl
@[simp] theorem State.shiftFlags_portLog {n : Nat} (op : ShiftOp) (k : Nat) (x r : BitVec n) (c : Bool) : (s.shiftFlags op k x r c).portLog = s.portLog := rfl
@[simp] theorem State.shiftFlags_pins {n : Nat} (op : ShiftOp) (k : Nat) (x r : BitVec n) (c : Bool) : (s.shiftFlags op k x r c).pins = s.pins := rfl
@[simp] theorem State.shiftFlags_intaByte {n : Nat} (op : ShiftOp) (k : Nat) (x r : BitVec n) (c : Bool) : (s.shiftFlags op k x r c).intaByte = s.intaByte := rfl
@[simp] theorem State.shiftFlags_acks {n : Nat} (op : ShiftOp) (k : Nat) (x r : BitVec n) (c : Bool) : (s.shiftFlags op k x r c).acks = s.acks := rfl
@[simp] theorem State.shiftFlags_stale {n : Nat} (op : ShiftOp) (k : Nat) (x r : BitVec n) (c : Bool) : (s.shiftFlags op k x r c).stale = s.stale := rfl
@[simp] theorem State.shiftFlags_reloc {n : Nat} (op : ShiftOp) (k : Nat) (x r : BitVec n) (c : Bool) : (s.shiftFlags op k x r c).reloc = s.reloc := rfl
@[simp] theorem State.shiftFlags_chip {n : Nat} (op : ShiftOp) (k : Nat) (x r : BitVec n) (c : Bool) : (s.shiftFlags op k x r c).chip = s.chip := rfl
@[simp] theorem State.shiftFlags_dma {n : Nat} (op : ShiftOp) (k : Nat) (x r : BitVec n) (c : Bool) : (s.shiftFlags op k x r c).dma = s.dma := rfl
@[simp] theorem State.shiftFlags_timers {n : Nat} (op : ShiftOp) (k : Nat) (x r : BitVec n) (c : Bool) : (s.shiftFlags op k x r c).timers = s.timers := rfl
@[simp] theorem State.shiftFlags_intc {n : Nat} (op : ShiftOp) (k : Nat) (x r : BitVec n) (c : Bool) : (s.shiftFlags op k x r c).intc = s.intc := rfl
@[simp] theorem State.shiftFlags_agenda {n : Nat} (op : ShiftOp) (k : Nat) (x r : BitVec n) (c : Bool) : (s.shiftFlags op k x r c).agenda = s.agenda := rfl
@[simp] theorem State.shiftFlags_free {n : Nat} (op : ShiftOp) (k : Nat) (x r : BitVec n) (c : Bool) : (s.shiftFlags op k x r c).free = s.free + 2 := rfl

/-! ### Registers written and read -/

@[simp] theorem Segs.get_set (g : Segs) (r : SegReg) (v : Word) : (g.set r v).get r = v := by cases r <;> rfl

theorem Segs.get_set_ne (g : Segs) {r q : SegReg} (v : Word) (h : q ≠ r) : (g.set r v).get q = g.get q := by
  cases r <;> cases q <;> first | rfl | exact absurd rfl h

@[simp] theorem Regs.get16_set16 (g : Regs) (r : Reg) (v : Word) : (g.set16 r v).get16 r = v := by
  cases r <;> rfl

theorem Regs.get16_set16_ne (g : Regs) {r q : Reg} (v : Word) (h : q ≠ r) :
    (g.set16 r v).get16 q = g.get16 q := by
  cases r <;> cases q <;> first | rfl | exact absurd rfl h

theorem low_append (a b : Byte) : Word.low (a ++ b) = b := by
  unfold Word.low; ext i h
  have e : (a ++ b).getLsbD i = if i < 8 then b.getLsbD i else a.getLsbD (i - 8) := BitVec.getLsbD_append
  simp [e, h]

theorem high_append (a b : Byte) : Word.high (a ++ b) = a := by
  unfold Word.high; ext i h
  have e : (a ++ b).getLsbD (8 + i) = if 8 + i < 8 then b.getLsbD (8 + i) else a.getLsbD (8 + i - 8) :=
    BitVec.getLsbD_append
  rw [BitVec.getElem_extractLsb', e]
  simp [BitVec.getLsbD_eq_getElem h]

theorem high_append_low (x : Word) : (Word.high x ++ Word.low x : Word) = x := by
  unfold Word.high Word.low; ext i h
  simp; grind

theorem low_withLow (x : Word) (v : Byte) : Word.low (withLow x v) = v := low_append _ _

theorem high_withLow (x : Word) (v : Byte) : Word.high (withLow x v) = Word.high x := high_append _ _

theorem low_withHigh (x : Word) (v : Byte) : Word.low (withHigh x v) = Word.low x := low_append _ _

theorem high_withHigh (x : Word) (v : Byte) : Word.high (withHigh x v) = v := high_append _ _

@[simp] theorem Regs.get8_set8 (g : Regs) (r : Reg) (v : Byte) : (g.set8 r v).get8 r = v := by
  cases r <;> simp [Regs.get8, Regs.set8, low_withLow, high_withHigh]

theorem Regs.get8_set8_ne (g : Regs) {r q : Reg} (v : Byte) (h : q ≠ r) : (g.set8 r v).get8 q = g.get8 q := by
  cases r <;> cases q <;>
    first
      | exact absurd rfl h
      | simp [Regs.get8, Regs.set8, high_withLow, low_withHigh]

end Sys2Proof.Machine
end

