-- ==== Sys2Proof/Laws/Memory.lean ====
section
/-! SUPPORT. Memory: a read after a write, writes elsewhere, and the canonical form kept by every operation. -/

namespace Sys2Proof.Machine

/-! ### Cells -/

theorem Memory.above_trans {m : Memory} {a b : Nat} (h : a < b) (hm : Memory.above b m = true) :
    Memory.above a m = true := by
  induction m with
  | nil => rfl
  | cons c rest ih =>
    obtain ⟨k, v⟩ := c
    simp only [Memory.above, Bool.and_eq_true, decide_eq_true_eq] at hm ⊢
    exact ⟨by omega, ih hm.2⟩

theorem Memory.get_above {m : Memory} {a : Nat} (hm : Memory.above a m = true) :
    Memory.get m a = Memory.unlisted := by
  induction m with
  | nil => rfl
  | cons c rest ih =>
    obtain ⟨k, v⟩ := c
    simp only [Memory.above, Bool.and_eq_true, decide_eq_true_eq] at hm
    simp only [Memory.get]
    rw [if_neg (by omega), ih hm.2]

theorem Memory.wf_cons {k : Nat} {x : Byte} {rest : Memory} :
    Memory.wf ((k, x) :: rest) = true ↔
      k < 1048576 ∧ x ≠ Memory.unlisted ∧ Memory.above k rest = true ∧ Memory.wf rest = true := by
  simp [Memory.wf, and_assoc]

/-- A read after a write to the same address. -/
theorem Memory.get_put_same {m : Memory} (hm : m.wf = true) (a : Nat) (v : Byte) : (m.put a v).get a = v := by
  induction m with
  | nil => by_cases hv : v = Memory.unlisted <;> simp [Memory.put, Memory.get, hv]
  | cons c rest ih =>
    obtain ⟨k, x⟩ := c
    obtain ⟨-, -, ha, hw⟩ := Memory.wf_cons.1 hm
    simp only [Memory.put]
    split
    · rename_i hlt
      split
      · rename_i hv
        simp only [Memory.get]
        rw [if_neg (by omega), Memory.get_above (Memory.above_trans hlt ha), hv]
      · simp [Memory.get]
    · split
      · rename_i heq
        split
        · rename_i hv
          rw [heq, Memory.get_above ha, hv]
        · simp [Memory.get]
      · rename_i hne
        simp only [Memory.get]
        rw [if_neg (fun h => hne h.symm), ih hw]

/-- A write leaves every other address alone. -/
theorem Memory.get_put_ne (m : Memory) {a b : Nat} (h : b ≠ a) (v : Byte) : (m.put a v).get b = m.get b := by
  have h' : a ≠ b := Ne.symm h
  induction m with
  | nil =>
    simp only [Memory.put]
    split
    · rfl
    · simp [Memory.get, h']
  | cons c rest ih =>
    obtain ⟨k, x⟩ := c
    simp only [Memory.put]
    split
    · split
      · rfl
      · simp [Memory.get, h']
    · split
      · rename_i heq
        have hk : k ≠ b := by omega
        split <;> simp [Memory.get, hk, h']
      · simp only [Memory.get, ih]

theorem Memory.above_put {m : Memory} {b : Nat} (hm : Memory.above b m = true) {a : Nat} (h : b < a)
    (v : Byte) : Memory.above b (m.put a v) = true := by
  induction m with
  | nil => simp only [Memory.put]; split <;> simp [Memory.above, h]
  | cons c rest ih =>
    obtain ⟨k, x⟩ := c
    have hm' := hm
    simp only [Memory.above, Bool.and_eq_true, decide_eq_true_eq] at hm'
    simp only [Memory.put]
    split
    · split
      · exact hm
      · simp [Memory.above, h, hm'.1, hm'.2]
    · split
      · split
        · exact hm'.2
        · simp [Memory.above, h, hm'.2]
      · simp [Memory.above, hm'.1, ih hm'.2]

/-- A write keeps the canonical form. -/
theorem Memory.wf_put {m : Memory} (hm : m.wf = true) {a : Nat} (h : a < 1048576) (v : Byte) :
    (m.put a v).wf = true := by
  induction m with
  | nil => by_cases hv : v = Memory.unlisted <;> simp [Memory.put, Memory.wf, Memory.above, hv, h]
  | cons c rest ih =>
    obtain ⟨k, x⟩ := c
    obtain ⟨hk, hx, ha, hw⟩ := Memory.wf_cons.1 hm
    simp only [Memory.put]
    split
    · rename_i hlt
      split
      · exact hm
      · rename_i hv
        refine Memory.wf_cons.2 ⟨h, hv, ?_, hm⟩
        simp [Memory.above, hlt, Memory.above_trans hlt ha]
    · split
      · rename_i heq
        split
        · exact hw
        · rename_i hv
          exact Memory.wf_cons.2 ⟨h, hv, by rw [heq]; exact ha, hw⟩
      · exact Memory.wf_cons.2 ⟨hk, hx, Memory.above_put ha (by omega) v, ih hw⟩

/-! ### Bytes and words of the state -/

theorem addr_lt (a : Addr) : a.toNat < 1048576 := a.isLt

theorem addr_ne {a b : Addr} (h : b ≠ a) : b.toNat ≠ a.toNat := fun e => h (BitVec.eq_of_toNat_eq e)

theorem addr_succ_ne (a : Addr) : a + 1 ≠ a := by bv_omega

theorem State.storeByte_wf {s : State} (h : s.mem.wf = true) (a : Addr) (v : Byte) :
    (s.storeByte a v).mem.wf = true := Memory.wf_put h (addr_lt a) v

theorem State.storeWord_wf {s : State} (h : s.mem.wf = true) (a : Addr) (v : Word) :
    (s.storeWord a v).mem.wf = true := Memory.wf_put (Memory.wf_put h (addr_lt _) _) (addr_lt _) _

theorem State.loadByte_storeByte {s : State} (h : s.mem.wf = true) (a : Addr) (v : Byte) :
    (s.storeByte a v).loadByte a = v := Memory.get_put_same h _ _

theorem State.loadByte_storeByte_ne (s : State) {a b : Addr} (h : b ≠ a) (v : Byte) :
    (s.storeByte a v).loadByte b = s.loadByte b := Memory.get_put_ne _ (addr_ne h) _

theorem State.loadByte_storeWord_ne (s : State) {a b : Addr} (h : b ≠ a) (h1 : b ≠ a + 1) (v : Word) :
    (s.storeWord a v).loadByte b = s.loadByte b := by
  unfold State.storeWord
  rw [State.loadByte_storeByte_ne _ h1, State.loadByte_storeByte_ne _ h]

theorem State.loadByte_storeWord_low {s : State} (h : s.mem.wf = true) (a : Addr) (v : Word) :
    (s.storeWord a v).loadByte a = Word.low v := by
  unfold State.storeWord
  rw [State.loadByte_storeByte_ne _ (addr_succ_ne a).symm, State.loadByte_storeByte h]

theorem State.loadByte_storeWord_high {s : State} (h : s.mem.wf = true) (a : Addr) (v : Word) :
    (s.storeWord a v).loadByte (a + 1) = Word.high v := by
  unfold State.storeWord
  exact State.loadByte_storeByte (State.storeByte_wf h _ _) _ _

/-- The word read back after a word store. -/
theorem State.loadWord_storeWord {s : State} (h : s.mem.wf = true) (a : Addr) (v : Word) :
    (s.storeWord a v).loadWord a = v := by
  unfold State.loadWord
  rw [State.loadByte_storeWord_low h, State.loadByte_storeWord_high h]
  exact high_append_low v

/-! ### Placing an instruction -/

theorem placeBytes_wf (cs off : Word) (l : List Byte) {m : Memory} (h : m.wf = true) :
    (placeBytes cs off l m).wf = true := by
  induction l generalizing off m with
  | nil => exact h
  | cons b rest ih => exact ih _ (Memory.wf_put h (addr_lt _) _)

end Sys2Proof.Machine
end

