-- ==== Sys2Proof/Laws/Ops.lean ====
section
/-! SUPPORT. What each shared operation does, said once: chaining, bus cycles nobody comes between, accesses at
plain places, the stack, and the interrupt sequence. -/

namespace Sys2Proof.Machine

open Sys2Proof.Safety

/-! ### Chaining -/

@[simp] theorem seq_next {α β : Type} (a : α) (s : State) (k : α → State → Host.Outcome β Fault Refusal) :
    seq (.next (a, s)) k = k a s := rfl

@[simp] theorem seq_fault {α β : Type} (r : Fault) (k : α → State → Host.Outcome β Fault Refusal) :
    seq (.fault r : Res α) k = .fault r := rfl

@[simp] theorem seq_refused {α β : Type} (r : Refusal) (k : α → State → Host.Outcome β Fault Refusal) :
    seq (.refused r : Res α) k = .refused r := rfl

@[simp] theorem andThen_next {β : Type} (s : State) (k : State → Host.Outcome β Fault Refusal) :
    andThen (.next s) k = k s := rfl

@[simp] theorem andThen_fault {β : Type} (r : Fault) (k : State → Host.Outcome β Fault Refusal) :
    andThen (.fault r) k = .fault r := rfl

@[simp] theorem andThen_refused {β : Type} (r : Refusal) (k : State → Host.Outcome β Fault Refusal) :
    andThen (.refused r) k = .refused r := rfl

/-- A chain that answers a next value went through one. -/
theorem seq_eq_next {α β : Type} {x : Res α} {k : α → State → Host.Outcome β Fault Refusal} {b : β} :
    seq x k = .next b ↔ ∃ a s, x = .next (a, s) ∧ k a s = .next b := by
  cases x with
  | next p => obtain ⟨a, s⟩ := p; simp
  | fault r => simp
  | refused r => simp

/-- A chain that answers a next value went through a next state. -/
theorem andThen_eq_next {β : Type} {x : Out} {k : State → Host.Outcome β Fault Refusal} {b : β} :
    andThen x k = .next b ↔ ∃ s, x = .next s ∧ k s = .next b := by
  cases x <;> simp

/-! ### Places do not move -/

section Places

variable (s : State)

@[simp] theorem State.setSp_undisturbed (v : Word) : (s.setSp v).undisturbed = s.undisturbed := rfl
@[simp] theorem State.setSp_blockInMem (v : Word) (x : Addr) : (s.setSp v).blockInMem x = s.blockInMem x := rfl
@[simp] theorem State.setSp_place (v : Word) (x : Addr) : (s.setSp v).place x = s.place x := rfl
@[simp] theorem State.setSp_blockInIO (v : Word) (x : Word) : (s.setSp v).blockInIO x = s.blockInIO x := rfl
@[simp] theorem State.setBp_undisturbed (v : Word) : (s.setBp v).undisturbed = s.undisturbed := rfl
@[simp] theorem State.setBp_blockInMem (v : Word) (x : Addr) : (s.setBp v).blockInMem x = s.blockInMem x := rfl
@[simp] theorem State.setBp_place (v : Word) (x : Addr) : (s.setBp v).place x = s.place x := rfl
@[simp] theorem State.setBp_blockInIO (v : Word) (x : Word) : (s.setBp v).blockInIO x = s.blockInIO x := rfl
@[simp] theorem State.setCx_undisturbed (v : Word) : (s.setCx v).undisturbed = s.undisturbed := rfl
@[simp] theorem State.setCx_blockInMem (v : Word) (x : Addr) : (s.setCx v).blockInMem x = s.blockInMem x := rfl
@[simp] theorem State.setCx_place (v : Word) (x : Addr) : (s.setCx v).place x = s.place x := rfl
@[simp] theorem State.setCx_blockInIO (v : Word) (x : Word) : (s.setCx v).blockInIO x = s.blockInIO x := rfl
@[simp] theorem State.setSi_undisturbed (v : Word) : (s.setSi v).undisturbed = s.undisturbed := rfl
@[simp] theorem State.setSi_blockInMem (v : Word) (x : Addr) : (s.setSi v).blockInMem x = s.blockInMem x := rfl
@[simp] theorem State.setSi_place (v : Word) (x : Addr) : (s.setSi v).place x = s.place x := rfl
@[simp] theorem State.setSi_blockInIO (v : Word) (x : Word) : (s.setSi v).blockInIO x = s.blockInIO x := rfl
@[simp] theorem State.setDi_undisturbed (v : Word) : (s.setDi v).undisturbed = s.undisturbed := rfl
@[simp] theorem State.setDi_blockInMem (v : Word) (x : Addr) : (s.setDi v).blockInMem x = s.blockInMem x := rfl
@[simp] theorem State.setDi_place (v : Word) (x : Addr) : (s.setDi v).place x = s.place x := rfl
@[simp] theorem State.setDi_blockInIO (v : Word) (x : Word) : (s.setDi v).blockInIO x = s.blockInIO x := rfl
@[simp] theorem State.setSeg_undisturbed (r : SegReg) (v : Word) : (s.setSeg r v).undisturbed = s.undisturbed := rfl
@[simp] theorem State.setSeg_blockInMem (r : SegReg) (v : Word) (x : Addr) : (s.setSeg r v).blockInMem x = s.blockInMem x := rfl
@[simp] theorem State.setSeg_place (r : SegReg) (v : Word) (x : Addr) : (s.setSeg r v).place x = s.place x := rfl
@[simp] theorem State.setSeg_blockInIO (r : SegReg) (v : Word) (x : Word) : (s.setSeg r v).blockInIO x = s.blockInIO x := rfl
@[simp] theorem State.setFlags_undisturbed (f : Flags) : (s.setFlags f).undisturbed = s.undisturbed := rfl
@[simp] theorem State.setFlags_blockInMem (f : Flags) (x : Addr) : (s.setFlags f).blockInMem x = s.blockInMem x := rfl
@[simp] theorem State.setFlags_place (f : Flags) (x : Addr) : (s.setFlags f).place x = s.place x := rfl
@[simp] theorem State.setFlags_blockInIO (f : Flags) (x : Word) : (s.setFlags f).blockInIO x = s.blockInIO x := rfl
@[simp] theorem State.jump_undisturbed (v : Word) : (s.jump v).undisturbed = s.undisturbed := rfl
@[simp] theorem State.jump_blockInMem (v : Word) (x : Addr) : (s.jump v).blockInMem x = s.blockInMem x := rfl
@[simp] theorem State.jump_place (v : Word) (x : Addr) : (s.jump v).place x = s.place x := rfl
@[simp] theorem State.jump_blockInIO (v : Word) (x : Word) : (s.jump v).blockInIO x = s.blockInIO x := rfl
@[simp] theorem State.farJump_undisturbed (c v : Word) : (s.farJump c v).undisturbed = s.undisturbed := rfl
@[simp] theorem State.farJump_blockInMem (c v : Word) (x : Addr) : (s.farJump c v).blockInMem x = s.blockInMem x := rfl
@[simp] theorem State.farJump_place (c v : Word) (x : Addr) : (s.farJump c v).place x = s.place x := rfl
@[simp] theorem State.farJump_blockInIO (c v : Word) (x : Word) : (s.farJump c v).blockInIO x = s.blockInIO x := rfl
@[simp] theorem State.maskTraps_undisturbed : (s.maskTraps).undisturbed = s.undisturbed := rfl
@[simp] theorem State.maskTraps_blockInMem (x : Addr) : (s.maskTraps).blockInMem x = s.blockInMem x := rfl
@[simp] theorem State.maskTraps_place (x : Addr) : (s.maskTraps).place x = s.place x := rfl
@[simp] theorem State.maskTraps_blockInIO (x : Word) : (s.maskTraps).blockInIO x = s.blockInIO x := rfl
@[simp] theorem State.inhibited_undisturbed : (s.inhibited).undisturbed = s.undisturbed := rfl
@[simp] theorem State.inhibited_blockInMem (x : Addr) : (s.inhibited).blockInMem x = s.blockInMem x := rfl
@[simp] theorem State.inhibited_place (x : Addr) : (s.inhibited).place x = s.place x := rfl
@[simp] theorem State.inhibited_blockInIO (x : Word) : (s.inhibited).blockInIO x = s.blockInIO x := rfl
@[simp] theorem State.drawn_undisturbed (n : Nat) : (s.drawn n).undisturbed = s.undisturbed := rfl
@[simp] theorem State.drawn_blockInMem (n : Nat) (x : Addr) : (s.drawn n).blockInMem x = s.blockInMem x := rfl
@[simp] theorem State.drawn_place (n : Nat) (x : Addr) : (s.drawn n).place x = s.place x := rfl
@[simp] theorem State.drawn_blockInIO (n : Nat) (x : Word) : (s.drawn n).blockInIO x = s.blockInIO x := rfl
@[simp] theorem State.logPort_undisturbed (p : Word) (wd : Bool) (v : Word) : (s.logPort p wd v).undisturbed = s.undisturbed := rfl
@[simp] theorem State.logPort_blockInMem (p : Word) (wd : Bool) (v : Word) (x : Addr) : (s.logPort p wd v).blockInMem x = s.blockInMem x := rfl
@[simp] theorem State.logPort_place (p : Word) (wd : Bool) (v : Word) (x : Addr) : (s.logPort p wd v).place x = s.place x := rfl
@[simp] theorem State.logPort_blockInIO (p : Word) (wd : Bool) (v : Word) (x : Word) : (s.logPort p wd v).blockInIO x = s.blockInIO x := rfl
@[simp] theorem State.storeByte_undisturbed (a : Addr) (v : Byte) : (s.storeByte a v).undisturbed = s.undisturbed := rfl
@[simp] theorem State.storeByte_blockInMem (a : Addr) (v : Byte) (x : Addr) : (s.storeByte a v).blockInMem x = s.blockInMem x := rfl
@[simp] theorem State.storeByte_place (a : Addr) (v : Byte) (x : Addr) : (s.storeByte a v).place x = s.place x := rfl
@[simp] theorem State.storeByte_blockInIO (a : Addr) (v : Byte) (x : Word) : (s.storeByte a v).blockInIO x = s.blockInIO x := rfl
@[simp] theorem State.storeWord_undisturbed (a : Addr) (v : Word) : (s.storeWord a v).undisturbed = s.undisturbed := rfl
@[simp] theorem State.storeWord_blockInMem (a : Addr) (v : Word) (x : Addr) : (s.storeWord a v).blockInMem x = s.blockInMem x := rfl
@[simp] theorem State.storeWord_place (a : Addr) (v : Word) (x : Addr) : (s.storeWord a v).place x = s.place x := rfl
@[simp] theorem State.storeWord_blockInIO (a : Addr) (v : Word) (x : Word) : (s.storeWord a v).blockInIO x = s.blockInIO x := rfl
@[simp] theorem State.setReg_undisturbed (w : Width) (r : Reg) (v : BitVec w.bits) : (s.setReg w r v).undisturbed = s.undisturbed := by cases w <;> rfl
@[simp] theorem State.setReg_blockInMem (w : Width) (r : Reg) (v : BitVec w.bits) (x : Addr) : (s.setReg w r v).blockInMem x = s.blockInMem x := by cases w <;> rfl
@[simp] theorem State.setReg_place (w : Width) (r : Reg) (v : BitVec w.bits) (x : Addr) : (s.setReg w r v).place x = s.place x := by cases w <;> rfl
@[simp] theorem State.setReg_blockInIO (w : Width) (r : Reg) (v : BitVec w.bits) (x : Word) : (s.setReg w r v).blockInIO x = s.blockInIO x := by cases w <;> rfl
@[simp] theorem State.logicFlags_undisturbed {n : Nat} (r : BitVec n) : (s.logicFlags r).undisturbed = s.undisturbed := rfl
@[simp] theorem State.logicFlags_blockInMem {n : Nat} (r : BitVec n) (x : Addr) : (s.logicFlags r).blockInMem x = s.blockInMem x := rfl
@[simp] theorem State.logicFlags_place {n : Nat} (r : BitVec n) (x : Addr) : (s.logicFlags r).place x = s.place x := rfl
@[simp] theorem State.logicFlags_blockInIO {n : Nat} (r : BitVec n) (x : Word) : (s.logicFlags r).blockInIO x = s.blockInIO x := rfl

end Places

/-- Which places are plain depends on the relocation register and the memory map alone. -/
theorem blockInMem_congr {s t : State} (h : t.reloc = s.reloc) (a : Addr) :
    t.blockInMem a = s.blockInMem a := by
  unfold State.blockInMem; rw [h]

theorem place_congr {s t : State} (h : t.memMap = s.memMap) (a : Addr) : t.place a = s.place a := by
  unfold State.place; rw [h]

theorem plainAt_congr {s t : State} (h : t.reloc = s.reloc) (w : Width) (a : Addr)
    (hm : t.memMap = s.memMap := by rfl) : plainAt t w a = plainAt s w a := by
  cases w <;> simp [plainAt, plainByte, blockInMem_congr h, place_congr hm]

theorem plain_congr {s t : State} (h : t.reloc = s.reloc) (w : Width) (seg off : Word)
    (hm : t.memMap = s.memMap := by rfl) : plain t w seg off = plain s w seg off := by
  cases w <;> simp [plain, plainAt_congr h (hm := hm)]

theorem plainLoc_congr {s t : State} (h : t.reloc = s.reloc) (w : Width) (l : Loc)
    (hm : t.memMap = s.memMap := by rfl) : plainLoc t w l = plainLoc s w l := by
  cases l <;> simp [plainLoc, plain_congr h (hm := hm)]

/-! ### Plain places are RAM and devices -/

section Plain

variable {s : State}

theorem plainByte_iff {a : Addr} : plainByte s a = true ↔ s.blockInMem a = false ∧ s.place a = .ram := by
  simp [plainByte]

theorem presentByte_ram {a : Addr} (h : s.place a = .ram) : s.presentByte a = (s.loadByte a, s) := by
  simp [State.presentByte, h]

theorem driveByte_ram {a : Addr} (h : s.place a = .ram) (v : Byte) : s.driveByte a v = s.storeByte a v := by
  simp [State.driveByte, h]

theorem presentWord_ram {a : Addr} (h : s.place a = .ram) (h1 : s.place (a + 1) = .ram) :
    s.presentWord a = (s.loadWord a, s) := by
  simp only [State.presentWord, presentByte_ram h, presentByte_ram h1, State.loadWord]

theorem driveWord_ram {a : Addr} (h : s.place a = .ram) (h1 : s.place (a + 1) = .ram) (v : Word) :
    s.driveWord a v = s.storeWord a v := by
  unfold State.driveWord State.storeWord
  rw [driveByte_ram h, driveByte_ram (by simpa using h1)]

theorem vacant_ram {w : Width} {a : Addr} (h : s.place a = .ram) (h1 : s.place (a + 1) = .ram) :
    s.vacant w a = false := by
  unfold State.vacant
  rw [h, h1]
  cases w <;> rfl

theorem vacant_byte_ram {a : Addr} (h : s.place a = .ram) : s.vacant .byte a = false := by
  simp [State.vacant, h]

end Plain

/-! ### Bus cycles nobody comes between -/

/-- With nothing next that comes between, a data cycle starts at once (R146, R152). -/
theorem interpose_undisturbed {s : State} (h : s.undisturbed = true) : interpose s = .next s := by
  unfold interpose
  unfold State.undisturbed at h
  cases ha : s.agenda with
  | nil => rfl
  | cons t rest =>
    cases t <;> try rfl
    rename_i b
    rw [ha] at h
    cases b <;> simp_all [Between.heldByLock, interposeAll]

/-- With nothing next that comes between, a word at an odd place is not split (R146). -/
theorem splits_undisturbed {s : State} (h : s.undisturbed = true) (odd : Bool) :
    s.splits s.pfx.lock odd = none := by
  unfold State.undisturbed at h
  unfold State.splits
  cases odd <;> try rfl
  cases ha : s.agenda with
  | nil => rfl
  | cons t rest =>
    cases t <;> try rfl
    rename_i b
    rw [ha] at h
    cases b <;> simp_all [Between.heldByLock]

/-- Where the agenda gives the order of the byte cycles, a word at an odd place has them in it, whoever is alone on the
bus (R141, D10). -/
theorem splits_byteOrder {s : State} {rest : List Turn} {high : Bool}
    (h : s.agenda = .between (.byteOrder high) :: rest) (alone odd : Bool) :
    s.splits alone odd = if odd then some high else none := by
  unfold State.splits
  rw [h]

/-- What a DMA transfer has used of the agenda is passed over, and the rest still comes before the cycle (R567, R141). -/
theorem interposeAll_used (lock : Bool) (used : List Bool) (rest : List Turn) {s : State} (h : s.agenda = rest) :
    interposeAll lock (used.map (fun high => .between (.byteOrder high)) ++ rest) s = interposeAll lock rest s := by
  induction used with
  | nil => rfl
  | cons b used ih =>
    rw [List.map_cons, List.cons_append]
    refine (if_pos ?_).trans ih
    rw [h, List.length_append]
    omega

/-- An order of byte cycles next on the agenda is the CPU's own, and lets its cycle go (R141). -/
theorem interpose_byteOrder {s : State} {rest : List Turn} {high : Bool}
    (h : s.agenda = .between (.byteOrder high) :: rest) : interpose s = .next s := by
  unfold interpose
  rw [h]
  refine if_neg ?_
  rw [h, List.length_cons]
  omega

/-- Such an entry is used up between the two cycles, and nothing else happens there. -/
theorem interposeMid_byteOrder (alone high : Bool) (rest : List Turn) (s : State) :
    interposeMid alone (.between (.byteOrder high) :: rest) s = .next (s.setAgenda rest) := rfl

/-- A DMA transfer that RES does not cut splits no word (R141, R561). -/
theorem splits_uncut {s : State} (h : s.uncut = true) (odd : Bool) : s.splits true odd = none := by
  unfold State.uncut at h
  unfold State.splits
  cases odd <;> try rfl
  cases ha : s.agenda with
  | nil => rfl
  | cons t rest =>
    cases t <;> try rfl
    rename_i b
    rw [ha] at h
    cases b <;> simp_all

/-- A read of plain memory (R135). -/
theorem memRead_plain {s : State} {w : Width} {a : Addr} (hu : s.undisturbed = true)
    (h : plainAt s w a = true) : memRead w a s = .next (valueAt s w a, s) := by
  unfold memRead
  rw [interpose_undisturbed hu, andThen_next]
  cases w with
  | byte =>
    obtain ⟨hb, hp⟩ := plainByte_iff.1 h
    simp [memReadCycle, hb, vacant_byte_ram hp, presentByte_ram hp, valueAt]
  | word =>
    simp only [plainAt, Bool.and_eq_true, plainByte_iff] at h
    obtain ⟨⟨hb, hp⟩, hb1, hp1⟩ := h
    simp only [memReadCycle, wordReadCycles]
    rw [hb, hb1, vacant_ram hp hp1, splits_undisturbed hu, presentWord_ram hp hp1]
    rfl

/-- A write of plain memory (R135). -/
theorem memWrite_plain {s : State} {w : Width} {a : Addr} {v : BitVec w.bits} (hu : s.undisturbed = true)
    (h : plainAt s w a = true) : memWrite w a v s = .next (storeAt s w a v) := by
  unfold memWrite
  rw [interpose_undisturbed hu, andThen_next]
  cases w with
  | byte =>
    obtain ⟨hb, hp⟩ := plainByte_iff.1 h
    simp [memWriteCycle, hb, vacant_byte_ram hp, driveByte_ram hp, storeAt]
  | word =>
    simp only [plainAt, Bool.and_eq_true, plainByte_iff] at h
    obtain ⟨⟨hb, hp⟩, hb1, hp1⟩ := h
    simp only [memWriteCycle, wordWriteCycles]
    rw [hb, hb1, vacant_ram hp hp1, splits_undisturbed hu, driveWord_ram hp hp1]
    rfl

/-- A segment read of a plain place (R15, R142). -/
theorem readSeg_plain {s : State} {w : Width} {seg off : Word} (hu : s.undisturbed = true)
    (h : plain s w seg off = true) : readSeg w seg off s = .next (valueAt s w (phys seg off), s) := by
  cases w with
  | byte => exact memRead_plain hu h
  | word =>
    simp only [plain, Bool.and_eq_true, decide_eq_true_eq] at h
    simp only [readSeg, h.1, if_false]
    exact memRead_plain hu h.2

/-- A segment write of a plain place (R15, R142). -/
theorem writeSeg_plain {s : State} {w : Width} {seg off : Word} {v : BitVec w.bits}
    (hu : s.undisturbed = true) (h : plain s w seg off = true) :
    writeSeg w seg off v s = .next (storeAt s w (phys seg off) v) := by
  cases w with
  | byte => exact memWrite_plain hu h
  | word =>
    simp only [plain, Bool.and_eq_true, decide_eq_true_eq] at h
    simp only [writeSeg, h.1, if_false]
    exact memWrite_plain hu h.2

/-- An operand read (R186). -/
theorem readLoc_plain {s : State} {w : Width} {l : Loc} (hu : s.undisturbed = true)
    (h : plainLoc s w l = true) : readLoc w l s = .next (valueOf s w l, s) := by
  cases l with
  | reg r => rfl
  | mem seg off => exact readSeg_plain hu h

/-- An operand written (R186). -/
theorem writeLoc_plain {s : State} {w : Width} {l : Loc} {v : BitVec w.bits} (hu : s.undisturbed = true)
    (h : plainLoc s w l = true) : writeLoc w l v s = .next (putOf s w l v) := by
  cases l with
  | reg r => rfl
  | mem seg off => exact writeSeg_plain hu h

/-- A push onto a plain place (R228). -/
theorem push_plain {s : State} {v : Word} (hu : s.undisturbed = true)
    (h : plain s .word s.segs.ss (s.regs.sp - 2) = true) :
    push v s = .next (pushed s v) :=
  writeSeg_plain (w := .word) (s := s.setSp (s.regs.sp - 2)) hu h

/-- A pop from a plain place (R233). -/
theorem pop_plain {s : State} (hu : s.undisturbed = true)
    (h : plain s .word s.segs.ss s.regs.sp = true) :
    pop s = .next (s.loadWord (phys s.segs.ss s.regs.sp), s.setSp (s.regs.sp + 2)) := by
  unfold pop
  rw [readSeg_plain hu h]
  rfl

/-- A pointer read from plain places (R137). -/
theorem readPointer_plain {s : State} {seg off : Word} (hu : s.undisturbed = true)
    (h : plainPointer s seg off = true) :
    readPointer seg off s =
      .next ((s.loadWord (phys seg off), s.loadWord (phys seg (off + 2))), s) := by
  simp only [plainPointer, Bool.and_eq_true, decide_eq_true_eq] at h
  unfold readPointer
  rw [if_neg (by omega), readSeg_plain hu h.1.2, seq_next, readSeg_plain hu h.2]
  rfl

/-- A read of a plain port (R150): what the platform presents. -/
theorem ioRead_plain {s : State} {w : Width} {p : Word} (hu : s.undisturbed = true)
    (h : plainPort s w p = true) : ioRead w p s = .next (portValue s w p) := by
  unfold ioRead
  rw [interpose_undisturbed hu]
  cases w <;>
    simp_all [ioReadCycle, plainPort, plainPortByte, portValue, State.vacantPort, portReadCycles,
      splits_undisturbed hu]

/-- A write to a plain port (R150): one entry of the record of writes. -/
theorem ioWrite_plain {s : State} {w : Width} {p : Word} {v : BitVec w.bits} (hu : s.undisturbed = true)
    (h : plainPort s w p = true) :
    ioWrite w p v s = .next (s.logPort p (decide (w = .word)) (v.setWidth 16)) := by
  unfold ioWrite
  rw [interpose_undisturbed hu]
  cases w <;>
    simp_all [ioWriteCycle, plainPort, plainPortByte, State.vacantPort, portWriteCycles, splits_undisturbed hu]

/-! ### The interrupt sequence -/

theorem plain_of_reloc {s t : State} {w : Width} {seg off : Word} (h : plain s w seg off = true)
    (ht : t.reloc = s.reloc) (hm : t.memMap = s.memMap := by rfl) : plain t w seg off = true := by
  rw [plain_congr ht (hm := hm)]; exact h

/-- A vector table entry of plain memory read (R462). -/
theorem readVector_plain {s : State} {n : Byte} (hu : s.undisturbed = true) (hv : plainVector s n = true) :
    readVector n s =
      .next ((s.loadWord (n.setWidth 20 <<< 2), s.loadWord ((n.setWidth 20 <<< 2) + 2)), s) := by
  simp only [plainVector, Bool.and_eq_true] at hv
  unfold readVector
  rw [memRead_plain hu hv.1, seq_next, memRead_plain hu hv.2]
  rfl

/-- The three pushes of the interrupt sequence over plain places (R470). -/
theorem saveContext_plain {s : State} {ret : Word} (hu : s.undisturbed = true) (hr : roomFor s 3 = true) :
    saveContext ret s = .next (pushed (pushed (pushed s s.flags.image).maskTraps s.segs.cs) ret) := by
  simp only [roomFor, Bool.and_true, Bool.and_eq_true] at hr
  obtain ⟨h3, h2, h1⟩ := hr
  unfold saveContext
  rw [push_plain hu h1, andThen_next]
  have e2 : (pushed s s.flags.image).maskTraps.regs.sp - 2 = s.regs.sp - BitVec.ofNat 16 (2 * (1 + 1)) := by
    simp [pushed]; bv_omega
  rw [push_plain (s := (pushed s s.flags.image).maskTraps) hu
    (by rw [e2]; exact plain_of_reloc h2 rfl), andThen_next]
  have e3 : (pushed (pushed s s.flags.image).maskTraps (pushed s s.flags.image).segs.cs).regs.sp - 2 =
      s.regs.sp - BitVec.ofNat 16 (2 * (2 + 1)) := by
    simp [pushed]; bv_omega
  rw [push_plain (s := pushed (pushed s s.flags.image).maskTraps (pushed s s.flags.image).segs.cs) hu
    (by rw [e3]; exact plain_of_reloc h3 rfl)]
  rfl

/-- With nothing next that comes between, the table is read before the pushes (D30). -/
theorem interrupt_undisturbed {s : State} (hu : s.undisturbed = true) (n : Byte) (ret : Word) :
    interrupt n ret s = tableThenPushes n ret s := by
  unfold State.undisturbed at hu
  unfold interrupt
  cases ha : s.agenda with
  | nil => rfl
  | cons t rest =>
    cases t <;> try rfl
    rename_i b
    rw [ha] at hu
    cases b <;> simp_all [Between.heldByLock]

/-- The interrupt sequence over plain places (R470). -/
theorem interrupt_plain {s : State} {n : Byte} {ret : Word} (hu : s.undisturbed = true)
    (hv : plainVector s n = true) (hr : roomFor s 3 = true) :
    interrupt n ret s = .next (interrupted s n ret) := by
  rw [interrupt_undisturbed hu]
  unfold tableThenPushes
  rw [readVector_plain hu hv, seq_next, saveContext_plain hu hr, andThen_next]
  rfl

end Sys2Proof.Machine
end

