-- ==== Sys2Proof/Laws/Instr.lean ====
section
/-! SUPPORT. What the operand forms, the shared operations of the instructions and the fetch do over plain places,
each said once. -/

namespace Sys2Proof.Machine

open Sys2Proof.Safety

/-! ### Places that an update leaves where they are -/

theorem stackWord_zero (s : State) : stackWord s 0 = s.loadWord (phys s.segs.ss s.regs.sp) := by
  unfold stackWord; congr 2; simp

/-- No operand is addressed through SP (R176). -/
theorem locate_setSp (s : State) (v : Word) (rm : RM) : (s.setSp v).locate rm = s.locate rm := by
  cases rm with
  | reg r => rfl
  | mem m => cases m <;> rfl

/-! ### Operand forms -/

/-- The destination of a plain two-operand form is plain. -/
theorem plainLoc_dst {s : State} {d : Dir} {w : Width} {rm : RM} {reg : Reg}
    (h : plainLoc s w (s.locate rm) = true) : plainLoc s w (dstOf s d rm reg) = true := by
  cases d
  · exact h
  · rfl

/-- `op r/m, reg` and `op reg, r/m` (R180). -/
theorem withRmReg_plain {s : State} (hu : s.undisturbed = true)
    {op : (w : Width) → Loc → BitVec w.bits → BitVec w.bits → State → Out} {d : Dir} {w : Width} {rm : RM}
    {reg : Reg} (h : plainLoc s w (s.locate rm) = true) :
    withRmReg op d w rm reg s =
      op w (dstOf s d rm reg) (valueOf s w (dstOf s d rm reg)) (valueOf s w (srcOf s d rm reg)) s := by
  cases d <;> simp [withRmReg, readLoc_plain hu h, dstOf, srcOf, valueOf]

/-- `op r/m, imm` (R179). -/
theorem withRmImm_plain {s : State} (hu : s.undisturbed = true)
    {op : (w : Width) → Loc → BitVec w.bits → BitVec w.bits → State → Out} {w : Width} {rm : RM}
    {v : BitVec w.bits} (h : plainLoc s w (s.locate rm) = true) :
    withRmImm op w rm v s = op w (s.locate rm) (valueOf s w (s.locate rm)) v s := by
  simp [withRmImm, readLoc_plain hu h]

/-! ### Operations -/

theorem addTo_plain {s : State} (hu : s.undisturbed = true) {c : Bool} {w : Width} {l : Loc}
    {b : BitVec w.bits} (h : plainLoc s w l = true) :
    addTo c w l (valueOf s w l) b s = .next (sumTo s w l b c) :=
  writeLoc_plain (s := s.setFlags _) hu (by rw [plainLoc_congr rfl]; exact h)

theorem subTo_plain {s : State} (hu : s.undisturbed = true) {c : Bool} {w : Width} {l : Loc}
    {b : BitVec w.bits} (h : plainLoc s w l = true) :
    subTo c w l (valueOf s w l) b s = .next (diffTo s w l b c) :=
  writeLoc_plain (s := s.setFlags _) hu (by rw [plainLoc_congr rfl]; exact h)

theorem logicTo_plain {s : State} (hu : s.undisturbed = true) {w : Width} {l : Loc} {r : BitVec w.bits}
    (h : plainLoc s w l = true) : logicTo w l r s = .next (logicalTo s w l r) :=
  writeLoc_plain (s := s.logicFlags _) hu (by rw [plainLoc_congr rfl]; exact h)

theorem increment_plain {s : State} (hu : s.undisturbed = true) {w : Width} {l : Loc}
    (h : plainLoc s w l = true) :
    increment w l s =
      .next (putOf (s.setFlags (s.flags.inc (valueOf s w l))) w l (addResult (valueOf s w l) 1 false)) := by
  unfold increment
  rw [readLoc_plain hu h, seq_next]
  exact writeLoc_plain (s := s.setFlags _) hu (by rw [plainLoc_congr rfl]; exact h)

theorem decrement_plain {s : State} (hu : s.undisturbed = true) {w : Width} {l : Loc}
    (h : plainLoc s w l = true) :
    decrement w l s =
      .next (putOf (s.setFlags (s.flags.dec (valueOf s w l))) w l (subResult (valueOf s w l) 1 false)) := by
  unfold decrement
  rw [readLoc_plain hu h, seq_next]
  exact writeLoc_plain (s := s.setFlags _) hu (by rw [plainLoc_congr rfl]; exact h)

/-- The whole shift or rotate (R342). -/
theorem shiftRm_plain {s : State} (hu : s.undisturbed = true) {op : ShiftOp} {w : Width} {rm : RM}
    {count : Byte} (h : plainLoc s w (s.locate rm) = true) :
    shiftRm op w rm count s = .next (shifted s op w (s.locate rm) count) := by
  simp only [shiftRm, readLoc_plain hu h, seq_next, shifted]
  split
  · rfl
  · exact writeLoc_plain (s := s.shiftFlags _ _ _ _ _) hu (by rw [plainLoc_congr rfl]; exact h)

theorem popSegment_plain {s : State} (hu : s.undisturbed = true) {sreg : SegReg}
    (h : plain s .word s.segs.ss s.regs.sp = true) :
    popSegment sreg s = .next ((s.setSp (s.regs.sp + 2)).setSeg sreg (stackWord s 0)).inhibited := by
  unfold popSegment
  rw [pop_plain hu h, stackWord_zero]
  rfl

theorem loadPointer_plain {s : State} (hu : s.undisturbed = true) {sreg : SegReg} {reg : Reg} {mem : MemRef}
    (h : plainPointer s (s.memSeg mem) (s.ea mem) = true) :
    loadPointer sreg reg mem s =
      .next ((s.setReg .word reg (s.loadWord (phys (s.memSeg mem) (s.ea mem)))).setSeg sreg
        (s.loadWord (phys (s.memSeg mem) (s.ea mem + 2)))).inhibited := by
  unfold loadPointer
  rw [readPointer_plain hu h]
  rfl

theorem callFarTo_plain {s : State} (hu : s.undisturbed = true) {seg off : Word} (h : roomFor s 2 = true) :
    callFarTo seg off s = .next ((pushed (pushed s s.segs.cs) s.ip).farJump seg off) := by
  simp only [roomFor, Bool.and_true, Bool.and_eq_true] at h
  unfold callFarTo
  rw [push_plain hu h.2, andThen_next]
  have e : (pushed s s.segs.cs).regs.sp - 2 = s.regs.sp - BitVec.ofNat 16 (2 * (1 + 1)) := by
    simp [pushed]; bv_omega
  rw [push_plain (s := pushed s s.segs.cs) hu (by rw [e]; exact plain_of_reloc h.1 rfl), andThen_next]
  rfl

/-! ### The status word -/

/-- The nine flags come back from the status word (R36). -/
theorem Flags.ofImage_image (f : Flags) : Flags.ofImage f.image = f := by
  obtain ⟨cf, pf, af, zf, sf, tf, ifl, df, ofl⟩ := f
  revert cf pf af zf sf tf ifl df ofl
  decide +kernel

/-! ### Fetching -/

theorem fetchesRefused_congr {s t : State} {n : Nat} (h1 : t.reloc = s.reloc) (h2 : t.segs = s.segs)
    (h3 : t.ip = s.ip) (h4 : t.memMap = s.memMap) : t.fetchesRefused n = s.fetchesRefused n := by
  induction n with
  | zero => rfl
  | succ n ih =>
    simp only [State.fetchesRefused, ih, State.fetchRefused, State.vacant, State.codeAddr, h2, h3,
      blockInMem_congr h1, place_congr h4]
    rfl

/-! ### The boundary and the bus -/

/-- With HOLD LOW a boundary waits for nothing (R600). -/
theorem boundary_of_bus {s : State} (h : s.pins.hold = false) (t w : Bool) :
    boundary t w s =
      if s.inhibit then .next { s with inhibitInt := false, inhibit := false }
      else andThen (takeHardware s.inhibitInt { s with inhibitInt := false }) fun s =>
        if t && !w then takeInterrupt 1 s else .next s := by
  unfold boundary
  rw [h, Bool.false_and, Bool.false_and, if_neg Bool.false_ne_true]

/-- With HOLD HIGH a boundary that would take an interrupt is put off (R600; log 32). -/
theorem boundary_awaits {s : State} {t w : Bool} (h : s.pins.hold = true) (hi : s.inhibit = false)
    (hw : s.interrupts t w = true) : boundary t w s = .next (s.awaitBus t w) := by
  unfold boundary
  rw [h, hi, hw]
  rfl

/-- The CPU's turn while the bus is granted (R600). -/
theorem cpuTurn_granted {s : State} (h : s.granted = true) : cpuTurn s = .next s := by
  unfold cpuTurn
  rw [h, if_pos rfl]

/-- The CPU's turn where a boundary has waited for the bus (R600; log 32). -/
theorem cpuTurn_due {s : State} {d : Due} (hg : s.granted = false) (hd : s.due = some d) :
    cpuTurn s = boundary d.traced d.wait { s.takeBus with due := none } := by
  unfold cpuTurn
  rw [hg, if_neg Bool.false_ne_true]
  unfold cpuStep
  rw [show s.takeBus.due = some d from hd]

/-- The CPU's turn where the bytes at CS:IP decode to an instruction. -/
theorem cpuTurn_instr {s : State} {i : Instr} {n : Nat} (hg : s.granted = false) (hdue : s.due = none)
    (hr : s.activity = .running) (hd : decode s.fetchBytes = .instr i n)
    (hb : s.fetchesRefused (s.fetchLength i n) = none)
    (hrep : s.pfx.rep.isSome = true → isPrefix i = true ∨ isString i = true) :
    cpuTurn s = runInstr i (s.takeBus.markStart.fetched.advance n) := by
  have hr' : s.takeBus.activity = .running := hr
  have hd' : decode s.takeBus.fetchBytes = .instr i n := hd
  have hreloc : s.takeBus.markStart.fetched.reloc = s.reloc := by
    unfold State.fetched State.markStart; split <;> split <;> rfl
  have hl : s.takeBus.markStart.fetched.fetchLength i n = s.fetchLength i n := by
    unfold State.fetchLength; rw [hreloc]
  have hb' : s.takeBus.markStart.fetched.fetchesRefused (s.fetchLength i n) = none := by
    rw [← hb]
    apply fetchesRefused_congr hreloc <;> (unfold State.fetched State.markStart; split <;> split <;> rfl)
  have hp : s.takeBus.markStart.fetched.pfx = s.pfx := by
    unfold State.fetched State.markStart; split <;> split <;> rfl
  unfold cpuTurn
  rw [hg, if_neg (by simp)]
  unfold cpuStep
  rw [show s.takeBus.due = none from hdue]
  dsimp only
  unfold cpuMove
  rw [hr']
  show fetchAndRun _ = _
  unfold fetchAndRun
  rw [hd']
  simp only [runDecoded]
  rw [hl, hb']
  dsimp only
  rw [hp, if_neg]
  rcases hh : s.pfx.rep.isSome <;> simp
  intro h1
  rcases hrep hh with h | h <;> simp_all

end Sys2Proof.Machine
end

