-- ==== Sys2Proof/Laws/Keeps.lean ====
section
/-! SUPPORT. What the shared operations keep, whoever comes between their bus cycles. A relation between the state
before and the state after that the primitive updates respect is respected by every bus operation (`BusRel`); the
two uses are the CPU's own registers, which no bus operation touches, and the invariant. -/

namespace Sys2Proof.Machine

open Sys2Proof.Safety

/-! ### Relations along a chain -/

/-- `x` ends with the state `t`: goes on with it, or is cut there by RES (R620). -/
def Ends {α : Type} (x : Host.Outcome α Fault Refusal) (of : α → State) (t : State) : Prop :=
  (∃ a, x = .next a ∧ of a = t) ∨ x = .fault (.res t)

/-- Every state `x` ends with is related to `s`. -/
def After (R : State → State → Prop) (s : State) (x : Out) : Prop := ∀ t, Ends x id t → R s t

/-- Every state `x`, which also yields a value, ends with is related to `s`. -/
def AfterValue (R : State → State → Prop) {α : Type} (s : State) (x : Res α) : Prop :=
  ∀ t, Ends x Prod.snd t → R s t

section Chain

variable {R : State → State → Prop} {α : Type} {s : State}

theorem after_next {t : State} (h : R s t) : After R s (.next t) := by
  rintro u (⟨a, ha, rfl⟩ | hu)
  · cases ha; exact h
  · cases hu

theorem after_res {t : State} (h : R s t) : After R s (.fault (.res t)) := by
  rintro u (⟨a, ha, -⟩ | hu)
  · cases ha
  · cases hu; exact h

theorem after_fault {r : Fault} (h : ∀ t, r ≠ .res t) : After R s (.fault r) := by
  rintro u (⟨a, ha, -⟩ | hu)
  · cases ha
  · cases hu; exact absurd rfl (h u)

theorem after_refused (r : Refusal) : After R s (.refused r) := by
  rintro u (⟨a, ha, -⟩ | hu)
  · cases ha
  · cases hu

theorem afterValue_next {a : α} {t : State} (h : R s t) : AfterValue R s (.next (a, t)) := by
  rintro u (⟨b, hb, rfl⟩ | hu)
  · cases hb; exact h
  · cases hu

theorem afterValue_pair {p : α × State} (h : R s p.2) : AfterValue R s (.next p) := afterValue_next h

theorem afterValue_fault {r : Fault} (h : ∀ t, r ≠ .res t) : AfterValue R s (.fault r : Res α) := by
  rintro u (⟨a, ha, -⟩ | hu)
  · cases ha
  · cases hu; exact absurd rfl (h u)

theorem afterValue_refused (r : Refusal) : AfterValue R s (.refused r : Res α) := by
  rintro u (⟨a, ha, -⟩ | hu)
  · cases ha
  · cases hu

variable (trans : ∀ a b c : State, R a b → R b c → R a c)

include trans

theorem after_of {t : State} {x : Out} (h : R s t) (hx : After R t x) : After R s x :=
  fun u hu => trans _ _ _ h (hx u hu)

theorem afterValue_of {t : State} {x : Res α} (h : R s t) (hx : AfterValue R t x) : AfterValue R s x :=
  fun u hu => trans _ _ _ h (hx u hu)

theorem after_seq {x : Res α} {k : α → State → Out} (hx : AfterValue R s x)
    (hk : ∀ a t, After R t (k a t)) : After R s (seq x k) := by
  intro u hu
  cases x with
  | next p => exact trans _ _ _ (hx p.2 (.inl ⟨p, rfl, rfl⟩)) (hk p.1 p.2 u hu)
  | fault r => exact hx u (by rcases hu with ⟨_, h, -⟩ | h <;> cases h; exact .inr rfl)
  | refused r => rcases hu with ⟨_, h, -⟩ | h <;> cases h

theorem after_andThen {x : Out} {k : State → Out} (hx : After R s x) (hk : ∀ t, After R t (k t)) :
    After R s (andThen x k) := by
  intro u hu
  cases x with
  | next t => exact trans _ _ _ (hx t (.inl ⟨t, rfl, rfl⟩)) (hk t u hu)
  | fault r => exact hx u (by rcases hu with ⟨_, h, -⟩ | h <;> cases h; exact .inr rfl)
  | refused r => rcases hu with ⟨_, h, -⟩ | h <;> cases h

theorem afterValue_seq {β : Type} {x : Res α} {k : α → State → Res β} (hx : AfterValue R s x)
    (hk : ∀ a t, AfterValue R t (k a t)) : AfterValue R s (seq x k) := by
  intro u hu
  cases x with
  | next p => exact trans _ _ _ (hx p.2 (.inl ⟨p, rfl, rfl⟩)) (hk p.1 p.2 u hu)
  | fault r => exact hx u (by rcases hu with ⟨_, h, -⟩ | h <;> cases h; exact .inr rfl)
  | refused r => rcases hu with ⟨_, h, -⟩ | h <;> cases h

theorem afterValue_andThen {x : Out} {k : State → Res α} (hx : After R s x)
    (hk : ∀ t, AfterValue R t (k t)) : AfterValue R s (andThen x k) := by
  intro u hu
  cases x with
  | next t => exact trans _ _ _ (hx t (.inl ⟨t, rfl, rfl⟩)) (hk t u hu)
  | fault r => exact hx u (by rcases hu with ⟨_, h, -⟩ | h <;> cases h; exact .inr rfl)
  | refused r => rcases hu with ⟨_, h, -⟩ | h <;> cases h

end Chain

/-! ### Bus operations -/

/-- A relation that every primitive update of a bus operation respects. -/
structure BusRel (R : State → State → Prop) : Prop where
  refl : ∀ s, R s s
  trans : ∀ a b c : State, R a b → R b c → R a c
  storeByte : ∀ s a v, R s (s.storeByte a v)
  setAgenda : ∀ s l, R s (s.setAgenda l)
  drawn : ∀ s n, R s (s.drawn n)
  logPort : ∀ s p w v, R s (s.logPort p w v)
  logMem : ∀ s a v, R s (s.logMem a v)
  world : ∀ s w, R s (s.world w)
  readReg : ∀ s r, R s (s.readReg r).2
  writeReg : ∀ s r v, After R s (s.writeReg r v)
  dmaDone : ∀ s c v, R s (s.dmaDone c v)

theorem dmaMemFault_ne_res {w : Width} {a : Addr} {s : State} {r : Fault} (h : dmaMemFault w a s = some r)
    (t : State) : r ≠ .res t := by
  unfold dmaMemFault at h
  repeat' split at h
  all_goals cases h
  all_goals simp

theorem dmaPortFault_ne_res {w : Width} {a : Addr} {s : State} {r : Fault} (h : dmaPortFault w a s = some r)
    (t : State) : r ≠ .res t := by
  unfold dmaPortFault at h
  dsimp only at h
  repeat' split at h
  all_goals cases h
  all_goals simp

namespace BusRel

variable {R : State → State → Prop} (B : BusRel R)

include B

theorem devicePort (s : State) (p : Word) : R s (s.devicePort p).2 := by
  unfold State.devicePort
  split
  · exact B.refl _
  · exact B.drawn _ _

theorem presentByte (s : State) (a : Addr) : R s (s.presentByte a).2 := by
  unfold State.presentByte
  split
  · exact B.drawn _ _
  · exact B.refl _

theorem presentWord (s : State) (a : Addr) : R s (s.presentWord a).2 :=
  B.trans _ _ _ (B.presentByte _ _) (B.presentByte _ _)

theorem driveByte (s : State) (a : Addr) (v : Byte) : R s (s.driveByte a v) := by
  unfold State.driveByte
  split
  · exact B.storeByte _ _ _
  · exact B.logMem _ _ _
  · exact B.refl _

theorem driveWord (s : State) (a : Addr) (v : Word) : R s (s.driveWord a v) :=
  B.trans _ _ _ (B.driveByte _ _ _) (B.driveByte _ _ _)

theorem readBlock (s : State) (off : Byte) : R s (s.readBlock off).2 := by
  unfold State.readBlock
  split
  · exact B.readReg _ _
  · exact B.drawn _ _

theorem writeBlock (s : State) (off : Byte) (v : Word) : After R s (s.writeBlock off v) := by
  unfold State.writeBlock
  split
  · exact B.writeReg _ _ _
  · exact after_refused _

/-- One cycle of an external master. -/
theorem masterMoves (m : Master) (s : State) : After R s (masterMoves m s) := by
  cases m <;> simp only [Machine.masterMoves]
  all_goals repeat' split
  all_goals first
    | exact after_fault (by simp)
    | exact after_next (B.driveByte _ _ _)
    | exact after_next (B.logPort _ _ _ _)

theorem mastersMid (alone : Bool) (l : List Turn) (s : State) : After R s (mastersMid alone l s) := by
  induction l generalizing s with
  | nil => exact after_next (B.refl _)
  | cons t rest ih =>
    unfold Machine.mastersMid
    split
    · rename_i h
      cases h
      split
      · exact after_next (B.refl _)
      · exact after_andThen B.trans (after_of B.trans (B.setAgenda _ rest) (B.masterMoves _ _)) ih
    · rename_i h
      cases h
      exact after_res (B.setAgenda _ _)
    · exact after_next (B.refl _)

theorem interposeMid (alone : Bool) (l : List Turn) (s : State) : After R s (interposeMid alone l s) := by
  unfold Machine.interposeMid
  split
  · exact after_next (B.setAgenda _ _)
  · exact B.mastersMid _ _ _

theorem wordReadCycles (alone : Bool) (a : Addr) (s : State) : AfterValue R s (wordReadCycles alone a s) := by
  unfold Machine.wordReadCycles
  split
  · exact afterValue_pair (B.presentWord _ _)
  all_goals
    exact afterValue_andThen B.trans (after_of B.trans (B.presentByte _ _) (B.interposeMid _ _ _))
      fun t => afterValue_next (B.presentByte _ _)

theorem wordWriteCycles (alone : Bool) (a : Addr) (v : Word) (s : State) :
    After R s (wordWriteCycles alone a v s) := by
  unfold Machine.wordWriteCycles
  split
  · exact after_next (B.driveWord _ _ _)
  all_goals
    exact after_andThen B.trans (after_of B.trans (B.driveByte _ _ _) (B.interposeMid _ _ _))
      fun t => after_next (B.driveByte _ _ _)

theorem portReadCycles (alone : Bool) (p : Word) (s : State) : AfterValue R s (portReadCycles alone p s) := by
  unfold Machine.portReadCycles
  split
  · exact afterValue_next (B.trans _ _ _ (B.devicePort _ _) (B.devicePort _ _))
  all_goals
    exact afterValue_andThen B.trans (after_of B.trans (B.devicePort _ _) (B.interposeMid _ _ _))
      fun t => afterValue_next (B.devicePort _ _)

theorem portWriteCycles (alone : Bool) (p : Word) (v : Word) (s : State) :
    After R s (portWriteCycles alone p v s) := by
  unfold Machine.portWriteCycles
  split
  · exact after_next (B.logPort _ _ _ _)
  all_goals
    exact after_andThen B.trans (after_of B.trans (B.logPort _ _ _ _) (B.interposeMid _ _ _))
      fun t => after_next (B.logPort _ _ _ _)

theorem dmaReadMem (w : Width) (a : Addr) (s : State) : AfterValue R s (dmaReadMem w a s) := by
  unfold Machine.dmaReadMem
  split
  · rename_i h
    exact afterValue_fault (dmaMemFault_ne_res h)
  · cases w
    · exact afterValue_pair (B.presentByte _ _)
    · exact B.wordReadCycles _ _ _

theorem dmaReadPort (w : Width) (a : Addr) (s : State) : AfterValue R s (dmaReadPort w a s) := by
  unfold Machine.dmaReadPort
  split
  · rename_i h
    exact afterValue_fault (dmaPortFault_ne_res h)
  · cases w
    · exact afterValue_pair (B.devicePort _ _)
    · exact B.portReadCycles _ _ _

theorem dmaWriteMem (w : Width) (a : Addr) (v : BitVec w.bits) (s : State) :
    After R s (dmaWriteMem w a v s) := by
  unfold Machine.dmaWriteMem
  split
  · rename_i h
    exact after_fault (dmaMemFault_ne_res h)
  · cases w
    · exact after_next (B.driveByte _ _ _)
    · exact B.wordWriteCycles _ _ _ _

theorem dmaWritePort (w : Width) (a : Addr) (v : BitVec w.bits) (s : State) :
    After R s (dmaWritePort w a v s) := by
  unfold Machine.dmaWritePort
  split
  · rename_i h
    exact after_fault (dmaPortFault_ne_res h)
  · cases w
    · exact after_next (B.logPort _ _ _ _)
    · exact B.portWriteCycles _ _ _ _

theorem resetBeforeStore (s : State) : After R s (resetBeforeStore s) := by
  unfold Machine.resetBeforeStore
  split
  · exact after_res (B.setAgenda _ _)
  · exact after_next (B.refl _)

/-- One transfer of a channel. -/
theorem dmaTransfer (c : Channel) (s : State) : After R s (dmaTransfer c s) := by
  simp only [Machine.dmaTransfer]
  split
  · exact after_fault (by simp)
  · refine after_seq B.trans ?_ fun v t => after_andThen B.trans (B.resetBeforeStore _) fun u =>
      after_andThen B.trans ?_ fun u => after_next (B.dmaDone _ _ _)
    · split
      · exact B.dmaReadMem _ _ _
      · exact B.dmaReadPort _ _ _
    · split
      · exact B.dmaWriteMem _ _ _ _
      · exact B.dmaWritePort _ _ _ _

theorem interposeAll (lock : Bool) (l : List Turn) (s : State) : After R s (interposeAll lock l s) := by
  induction l generalizing s with
  | nil => exact after_next (B.refl _)
  | cons t rest ih =>
    unfold Machine.interposeAll
    split
    · rename_i h
      cases h
      exact after_next (B.setAgenda _ _)
    · rename_i h
      cases h
      exact after_res (B.setAgenda _ _)
    · rename_i h
      cases h
      split
      · exact after_next (B.refl _)
      · exact after_of B.trans (B.trans _ _ _ (B.setAgenda _ rest) (B.world _ _)) (ih _)
    · rename_i h
      cases h
      split
      · exact after_next (B.refl _)
      · refine after_andThen B.trans (after_of B.trans (B.setAgenda _ rest) ?_) ih
        split
        · exact B.dmaTransfer _ _
        · exact after_next (B.refl _)
    · rename_i h
      cases h
      split
      · exact after_next (B.refl _)
      · exact after_andThen B.trans (after_of B.trans (B.setAgenda _ rest) (B.masterMoves _ _)) ih
    · rename_i h
      cases h
      split
      · exact ih _
      · exact after_next (B.refl _)
    · exact after_next (B.refl _)

theorem interpose (s : State) : After R s (interpose s) := B.interposeAll _ _ _

/-- `MemRead`. -/
theorem memRead (w : Width) (a : Addr) (s : State) : AfterValue R s (memRead w a s) := by
  unfold Machine.memRead
  refine afterValue_andThen B.trans (B.interpose s) fun t => ?_
  cases w <;> simp only [memReadCycle]
  all_goals repeat' split
  all_goals first
    | exact afterValue_refused _
    | exact afterValue_pair (B.presentByte _ _)
    | exact afterValue_pair (B.readBlock _ _)
    | exact B.wordReadCycles _ _ _

/-- `MemWrite`. -/
theorem memWrite (w : Width) (a : Addr) (v : BitVec w.bits) (s : State) : After R s (memWrite w a v s) := by
  unfold Machine.memWrite
  refine after_andThen B.trans (B.interpose s) fun t => ?_
  cases w <;> simp only [memWriteCycle]
  all_goals repeat' split
  all_goals first
    | exact after_refused _
    | exact after_next (B.driveByte _ _ _)
    | exact after_of B.trans (B.driveWord _ _ _) (B.writeBlock _ _ _)
    | exact B.wordWriteCycles _ _ _ _

/-- `IORead`. -/
theorem ioRead (w : Width) (p : Word) (s : State) : AfterValue R s (ioRead w p s) := by
  unfold Machine.ioRead
  refine afterValue_andThen B.trans (B.interpose s) fun t => ?_
  cases w <;> simp only [ioReadCycle]
  all_goals repeat' split
  all_goals first
    | exact afterValue_refused _
    | exact afterValue_pair (B.devicePort _ _)
    | exact afterValue_pair (B.readBlock _ _)
    | exact B.portReadCycles _ _ _

/-- `IOWrite`. -/
theorem ioWrite (w : Width) (p : Word) (v : BitVec w.bits) (s : State) : After R s (ioWrite w p v s) := by
  unfold Machine.ioWrite
  refine after_andThen B.trans (B.interpose s) fun t => ?_
  cases w <;> simp only [ioWriteCycle]
  all_goals repeat' split
  all_goals first
    | exact after_refused _
    | exact after_next (B.logPort _ _ _ _)
    | exact after_of B.trans (B.logPort _ _ _ _) (B.writeBlock _ _ _)
    | exact B.portWriteCycles _ _ _ _

/-- `ReadSeg`. -/
theorem readSeg (w : Width) (seg off : Word) (s : State) : AfterValue R s (readSeg w seg off s) := by
  cases w <;> simp only [Machine.readSeg]
  · exact B.memRead _ _ _
  · split
    · exact afterValue_refused _
    · exact B.memRead _ _ _

/-- `WriteSeg`. -/
theorem writeSeg (w : Width) (seg off : Word) (v : BitVec w.bits) (s : State) :
    After R s (writeSeg w seg off v s) := by
  cases w <;> simp only [Machine.writeSeg]
  · exact B.memWrite _ _ _ _
  · split
    · exact after_refused _
    · exact B.memWrite _ _ _ _

/-- A 32-bit pointer read. -/
theorem readPointer (seg off : Word) (s : State) : AfterValue R s (readPointer seg off s) := by
  unfold Machine.readPointer
  split
  · exact afterValue_refused _
  · exact afterValue_seq B.trans (B.readSeg _ _ _ _) fun _ _ =>
      afterValue_seq B.trans (B.readSeg _ _ _ _) fun _ _ => afterValue_next (B.refl _)

/-- A vector table entry read. -/
theorem readVector (n : Byte) (s : State) : AfterValue R s (readVector n s) :=
  afterValue_seq B.trans (B.memRead _ _ _) fun _ _ =>
    afterValue_seq B.trans (B.memRead _ _ _) fun _ _ => afterValue_next (B.refl _)

/-- An operand read at its place. -/
theorem readLoc (w : Width) (l : Loc) (s : State) : AfterValue R s (readLoc w l s) := by
  cases l
  · exact afterValue_next (B.refl _)
  · exact B.readSeg _ _ _ _

end BusRel

/-! ### The CPU's registers -/

/-- The two states agree on everything of the CPU but the prefetch queue and the NMI latch. -/
structure SameCpu (s t : State) : Prop where
  regs : t.regs = s.regs := by rfl
  segs : t.segs = s.segs := by rfl
  ip : t.ip = s.ip := by rfl
  flags : t.flags = s.flags := by rfl
  ipStart : t.ipStart = s.ipStart := by rfl
  pfx : t.pfx = s.pfx := by rfl
  activity : t.activity = s.activity := by rfl
  inhibit : t.inhibit = s.inhibit := by rfl
  inhibitInt : t.inhibitInt = s.inhibitInt := by rfl

theorem SameCpu.refl (s : State) : SameCpu s s := {}

theorem SameCpu.trans {a b c : State} (h : SameCpu a b) (g : SameCpu b c) : SameCpu a c :=
  ⟨g.regs.trans h.regs, g.segs.trans h.segs, g.ip.trans h.ip, g.flags.trans h.flags,
    g.ipStart.trans h.ipStart, g.pfx.trans h.pfx, g.activity.trans h.activity, g.inhibit.trans h.inhibit,
    g.inhibitInt.trans h.inhibitInt⟩

theorem readReg_sameCpu (s : State) (r : BlockReg) : SameCpu s (s.readReg r).2 := by
  cases r
  case pollStatus => simp only [State.readReg, State.readPollStatus]; split <;> exact {}
  case poll => simp only [State.readReg, State.readPoll]; split <;> exact {}
  all_goals exact {}

theorem writeReg_sameCpu (s : State) (r : BlockReg) (v : Word) : After SameCpu s (s.writeReg r v) := by
  cases r <;> simp only [State.writeReg, State.writeReloc]
  all_goals repeat' split
  all_goals first
    | exact after_refused _
    | exact after_next {}

theorem world_sameCpu (s : State) (w : World) : SameCpu s (s.world w) := by
  cases w with
  | slot k =>
    simp only [State.world, State.timerSlot]
    split
    · cases k <;> exact {}
    · exact {}
  | pin p high => cases p <;> exact {}
  | inta | device | memDevice => exact {}

/-- No bus operation touches the CPU's registers. -/
theorem busRel_sameCpu : BusRel SameCpu where
  refl := SameCpu.refl
  trans _ _ _ := SameCpu.trans
  storeByte _ _ _ := {}
  setAgenda _ _ := {}
  drawn _ _ := {}
  logPort _ _ _ _ := {}
  logMem _ _ _ := {}
  world := world_sameCpu
  readReg := readReg_sameCpu
  writeReg := writeReg_sameCpu
  dmaDone s c _ := by cases c <;> exact {}

/-! ### The invariant -/

/-- The invariant goes from `s` to `t`. -/
def KeepsInv (s t : State) : Prop := Inv s → Inv t

/-- States that agree on the memory and on every register the invariant speaks of. -/
theorem inv_congr {s t : State} (h : Inv s) (mem : t.mem = s.mem) (reloc : t.reloc = s.reloc)
    (chip : t.chip = s.chip) (dma : t.dma = s.dma) (timers : t.timers = s.timers) (ivr : t.intc.ivr = s.intc.ivr)
    (pins : t.pins = s.pins) (armed0 : t.intc.armed0 = s.intc.armed0) (armed1 : t.intc.armed1 = s.intc.armed1)
    (armed2 : t.intc.armed2 = s.intc.armed2) (armed3 : t.intc.armed3 = s.intc.armed3) : Inv t where
  mem := by rw [mem]; exact h.mem
  ch0 := by rw [dma]; exact h.ch0
  ch1 := by rw [dma]; exact h.ch1
  timer0 := by rw [timers]; exact h.timer0
  timer1 := by rw [timers]; exact h.timer1
  timer2 := by rw [timers]; exact h.timer2
  reloc := by rw [reloc]; exact h.reloc
  armed := by unfold armedWf; rw [pins, armed0, armed1, armed2, armed3]; exact h.armed
  chip := by rw [chip]; exact h.chip
  ivr := by rw [ivr]; exact h.ivr

/-- An update that touches nothing the invariant speaks of. -/
theorem inv_same {s t : State} (h : Inv s) (mem : t.mem = s.mem := by rfl) (reloc : t.reloc = s.reloc := by rfl)
    (chip : t.chip = s.chip := by rfl) (dma : t.dma = s.dma := by rfl) (timers : t.timers = s.timers := by rfl)
    (intc : t.intc = s.intc := by rfl) (pins : t.pins = s.pins := by rfl) : Inv t :=
  inv_congr h mem reloc chip dma timers (by rw [intc]) pins (by rw [intc]) (by rw [intc]) (by rw [intc]) (by rw [intc])

theorem inv_storeByte {s : State} (h : Inv s) (a : Addr) (v : Byte) : Inv (s.storeByte a v) :=
  ⟨State.storeByte_wf h.mem a v, h.ch0, h.ch1, h.timer0, h.timer1, h.timer2, h.reloc, h.armed, h.chip, h.ivr⟩

/-- The acknowledge of a source whose request stands: an edge-mode pin that is disarmed is HIGH (R492). -/
theorem inv_acknowledged {s : State} (h : Inv s) {k : IntSource} (hk : s.intRequest k = true) :
    Inv (s.acknowledged k) := by
  refine ⟨h.mem, h.ch0, h.ch1, h.timer0, h.timer1, h.timer2, h.reloc, ?_, h.chip, ?_⟩
  · have ha := h.armed
    cases k
    case tmr =>
      simp only [State.acknowledged, Intc.clearRequest]
      repeat' split
      all_goals exact ha
    all_goals
      simp_all [armedWf, State.acknowledged, Intc.setService, Intc.setSource, Intc.clearRequest, State.intRequest,
        pinRequest]
  · have hi := h.ivr
    cases k
    case tmr =>
      simp only [State.acknowledged, Intc.clearRequest]
      repeat' split
      all_goals exact hi
    all_goals exact hi

/-- The presented source has a request (R493). -/
theorem intRequest_of_presented {s : State} {k : IntSource} (h : s.presented = some k) :
    s.intRequest k = true := by
  have key : ∀ (l : List IntSource) (j : IntSource), s.intc.smallest s.eligible l = some j → s.eligible j = true := by
    intro l
    induction l with
    | nil => intro j hj; simp [Intc.smallest] at hj
    | cons a rest ih =>
      intro j hj
      simp only [Intc.smallest] at hj
      repeat' split at hj
      all_goals simp_all
  have := key _ _ h
  simp only [State.eligible, Bool.and_eq_true] at this
  exact this.1.1.1.1

theorem inv_chan {s : State} (h : Inv s) (c : Channel) : ctrlWf (s.chan c) = true := by
  cases c
  · exact h.ch0
  · exact h.ch1

theorem inv_setChan {s : State} (h : Inv s) (c : Channel) {d : DmaChannel} (hd : ctrlWf d = true) :
    Inv (s.setChan c d) := by
  cases c
  · exact ⟨h.mem, hd, h.ch1, h.timer0, h.timer1, h.timer2, h.reloc, h.armed, h.chip, h.ivr⟩
  · exact ⟨h.mem, h.ch0, hd, h.timer0, h.timer1, h.timer2, h.reloc, h.armed, h.chip, h.ivr⟩

/-- A timer's hardwired bits, as the invariant asks for each of the three. -/
def timerWf (k : TimerId) (t : Timer) : Prop :=
  match k with
  | .t2 => timer2Wf t = true
  | _ => riuWf t = true

theorem inv_timer {s : State} (h : Inv s) (k : TimerId) : timerWf k (s.timers.get k) := by
  cases k
  · exact h.timer0
  · exact h.timer1
  · exact h.timer2

theorem inv_setTimer {s : State} (h : Inv s) (k : TimerId) {t : Timer} (ht : timerWf k t) :
    Inv (s.setTimer k t) := by
  cases k
  · exact ⟨h.mem, h.ch0, h.ch1, ht, h.timer1, h.timer2, h.reloc, h.armed, h.chip, h.ivr⟩
  · exact ⟨h.mem, h.ch0, h.ch1, h.timer0, ht, h.timer2, h.reloc, h.armed, h.chip, h.ivr⟩
  · exact ⟨h.mem, h.ch0, h.ch1, h.timer0, h.timer1, ht, h.reloc, h.armed, h.chip, h.ivr⟩

/-- A write to the mode word leaves the hardwired bits as they read (R91, R586). -/
theorem timerWf_writeMode (t : Timer) (k : TimerId) (v : Word) (h : timerWf k t) :
    timerWf k (t.writeMode k v) := by
  cases k <;> simp_all [timerWf, riuWf, timer2Wf, Timer.writeMode]
  all_goals cases v[1] <;> simp

/-- A service slot does too (R582 to R585). -/
theorem timerWf_slot (t : Timer) (k : TimerId) (pin : Bool) (h : timerWf k t) : timerWf k (t.slot k pin) := by
  unfold Timer.slot Timer.advance
  repeat' split
  all_goals cases k <;> simp_all [timerWf, riuWf, timer2Wf, Timer.consumed]
  all_goals grind

/-- The invariant over an update of the interrupt controller that keeps the pins' armed bits and the vector. -/
theorem inv_intc {s : State} (h : Inv s) {c : Intc} (ivr : c.ivr &&& 0x07#8 = 0#8 := by assumption)
    (armed0 : c.armed0 = s.intc.armed0 := by rfl) (armed1 : c.armed1 = s.intc.armed1 := by rfl)
    (armed2 : c.armed2 = s.intc.armed2 := by rfl) (armed3 : c.armed3 = s.intc.armed3 := by rfl) :
    Inv { s with intc := c } := by
  refine ⟨h.mem, h.ch0, h.ch1, h.timer0, h.timer1, h.timer2, h.reloc, ?_, h.chip, ivr⟩
  show ((s.pins.int0 || c.armed0) && (s.pins.int1 || c.armed1) && (s.pins.int2 || c.armed2) &&
    (s.pins.int3 || c.armed3)) = true
  rw [armed0, armed1, armed2, armed3]
  exact h.armed

/-- The in-service, mask and control writes of the controller keep the pins' armed bits and the vector. -/
theorem setSource_kept (c : Intc) (k : IntSource) (x : Source) :
    (c.setSource k x).ivr = c.ivr ∧ (c.setSource k x).armed0 = c.armed0 ∧ (c.setSource k x).armed1 = c.armed1 ∧
      (c.setSource k x).armed2 = c.armed2 ∧ (c.setSource k x).armed3 = c.armed3 := by
  cases k <;> exact ⟨rfl, rfl, rfl, rfl, rfl⟩

theorem inv_eoi {s : State} (h : Inv s) (v : Word) : Inv { s with intc := s.intc.eoi v } := by
  unfold Intc.eoi
  dsimp only
  split
  · exact inv_intc h (by rw [Intc.setService, (setSource_kept _ _ _).1]; exact h.ivr)
      (setSource_kept _ _ _).2.1 (setSource_kept _ _ _).2.2.1 (setSource_kept _ _ _).2.2.2.1
      (setSource_kept _ _ _).2.2.2.2
  · exact h

theorem inv_rmxEoi {s : State} (h : Inv s) (v : Word) : Inv { s with intc := s.intc.rmxEoi v } := by
  unfold Intc.rmxEoi
  split
  · rename_i k _
    cases k <;> exact inv_intc h h.ivr
  · exact h

theorem inv_scramble {s : State} (h : Inv s) : Inv s.scrambleIntc where
  mem := h.mem
  ch0 := h.ch0
  ch1 := h.ch1
  timer0 := h.timer0
  timer1 := h.timer1
  timer2 := h.timer2
  reloc := h.reloc
  armed := h.armed
  chip := h.chip
  ivr := by
    simp only [State.scrambleIntc]
    generalize s.freeBits3 79 = x
    generalize BitVec.ofBool (s.freeBit 82) = y
    generalize BitVec.ofBool (s.freeBit 83) = z
    revert x y z
    decide

theorem inv_writeReloc (s : State) (v : Word) : After KeepsInv s (s.writeReloc v) := by
  unfold State.writeReloc
  split
  · exact after_refused _
  · rename_i hv
    have hr : relocWf v = true := by
      revert hv; simp only [relocWf]; cases v.getLsbD 12 <;> simp
    split
    · exact after_next fun h => ⟨h.mem, h.ch0, h.ch1, h.timer0, h.timer1, h.timer2, hr, h.armed, h.chip, h.ivr⟩
    · refine after_next fun h => ?_
      have := inv_scramble h
      exact ⟨this.mem, this.ch0, this.ch1, this.timer0, this.timer1, this.timer2, hr, this.armed, this.chip,
        this.ivr⟩

theorem ctrlWf_writeCtrl (d : DmaChannel) (v : Word) :
    ctrlWf { d with ctrl := writeCtrl d.ctrl v } = true := by
  simp only [ctrlWf, writeCtrl]
  split <;> simp

theorem or_or_self {n : Nat} (v m : BitVec n) : v ||| m ||| m = v ||| m := by
  rw [BitVec.or_assoc, BitVec.or_self]

theorem inv_sources {s : State} (h : Inv s) (f : Intc → IntSource → Source) (l : List IntSource) :
    Inv { s with intc := l.foldl (fun c k => c.setSource k (f c k)) s.intc } := by
  have key : ∀ (l : List IntSource) (c : Intc),
      let d := l.foldl (fun c k => c.setSource k (f c k)) c
      d.ivr = c.ivr ∧ d.armed0 = c.armed0 ∧ d.armed1 = c.armed1 ∧ d.armed2 = c.armed2 ∧ d.armed3 = c.armed3 := by
    intro l
    induction l with
    | nil => intro c; exact ⟨rfl, rfl, rfl, rfl, rfl⟩
    | cons k rest ih =>
      intro c
      have h1 := ih (c.setSource k (f c k))
      have h2 := setSource_kept c k (f c k)
      exact ⟨h1.1.trans h2.1, h1.2.1.trans h2.2.1, h1.2.2.1.trans h2.2.2.1, h1.2.2.2.1.trans h2.2.2.2.1,
        h1.2.2.2.2.trans h2.2.2.2.2⟩
  have hk := key l s.intc
  exact inv_intc h (by rw [hk.1]; exact h.ivr) hk.2.1 hk.2.2.1 hk.2.2.2.1 hk.2.2.2.2

/-- Updates of the iRMX sources and requests keep them too. -/
theorem rmxFold_kept (g : Intc → RmxSource → Intc)
    (hg : ∀ c k, (g c k).ivr = c.ivr ∧ (g c k).armed0 = c.armed0 ∧ (g c k).armed1 = c.armed1 ∧
      (g c k).armed2 = c.armed2 ∧ (g c k).armed3 = c.armed3) (l : List RmxSource) (c : Intc) :
    (l.foldl g c).ivr = c.ivr ∧ (l.foldl g c).armed0 = c.armed0 ∧ (l.foldl g c).armed1 = c.armed1 ∧
      (l.foldl g c).armed2 = c.armed2 ∧ (l.foldl g c).armed3 = c.armed3 := by
  induction l generalizing c with
  | nil => exact ⟨rfl, rfl, rfl, rfl, rfl⟩
  | cons k rest ih =>
    have h1 := ih (g c k)
    have h2 := hg c k
    exact ⟨h1.1.trans h2.1, h1.2.1.trans h2.2.1, h1.2.2.1.trans h2.2.2.1, h1.2.2.2.1.trans h2.2.2.2.1,
      h1.2.2.2.2.trans h2.2.2.2.2⟩

theorem inv_rmxFold {s : State} (h : Inv s) (g : Intc → RmxSource → Intc)
    (hg : ∀ c k, (g c k).ivr = c.ivr ∧ (g c k).armed0 = c.armed0 ∧ (g c k).armed1 = c.armed1 ∧
      (g c k).armed2 = c.armed2 ∧ (g c k).armed3 = c.armed3) (l : List RmxSource) :
    Inv { s with intc := l.foldl g s.intc } := by
  have hk := rmxFold_kept g hg l s.intc
  exact inv_intc h (by rw [hk.1]; exact h.ivr) hk.2.1 hk.2.2.1 hk.2.2.2.1 hk.2.2.2.2

theorem inv_chip {s : State} (h : Inv s) {c : ChipSel} (hc : chipWf c = true) : Inv { s with chip := c } :=
  ⟨h.mem, h.ch0, h.ch1, h.timer0, h.timer1, h.timer2, h.reloc, h.armed, hc, h.ivr⟩

theorem inv_writeReg (s : State) (r : BlockReg) (v : Word) : After KeepsInv s (s.writeReg r v) := by
  cases r with
  | reloc => exact fun t ht h => inv_writeReloc s v t ht h
  | umcs => exact after_next fun h => inv_chip h h.chip
  | lmcs => exact after_next fun h => inv_chip h h.chip
  | pacs | mmcs | mpcs =>
    refine after_next fun h => inv_chip h ?_
    have := h.chip
    simp only [chipWf, Bool.and_eq_true, decide_eq_true_eq, or_or_self] at this ⊢
    simp [this.1.1, this.1.2, this.2]
  | dmaSrcLow c | dmaSrcHigh c | dmaDstLow c | dmaDstHigh c | dmaCount c =>
    refine after_next fun h => inv_setChan h c ?_
    have := inv_chan h c
    exact this
  | dmaCtrl c =>
    simp only [State.writeReg]
    split
    · exact after_refused _
    · exact after_next fun h => inv_setChan h c (ctrlWf_writeCtrl _ _)
  | tmrCount k | tmrMaxA k | tmrMaxB k =>
    refine after_next fun h => inv_setTimer h k ?_
    have := inv_timer h k
    cases k <;> exact this
  | tmrMode k => exact after_next fun h => inv_setTimer h k (timerWf_writeMode _ _ _ (inv_timer h k))
  | srcCtrl k =>
    simp only [State.writeReg]
    split
    · exact after_refused _
    · refine after_next fun h => ?_
      cases k <;> exact inv_intc h h.ivr
  | intStatus => exact after_next fun h => inv_intc h h.ivr
  | intRequest => exact after_next fun h => inv_intc h h.ivr
  | inService => exact after_next fun h => inv_sources h (fun c k => { c.source k with isv := sourceBit v k }) _
  | prioMask => exact after_next fun h => inv_intc h h.ivr
  | mask => exact after_next fun h => inv_sources h (fun c k => { c.source k with msk := sourceBit v k }) _
  | pollStatus => exact after_next fun h => h
  | poll => exact after_next fun h => h
  | eoi => exact after_next fun h => inv_eoi h v
  | rmxCtrl k =>
    simp only [State.writeReg]
    split
    · refine after_next fun h => ?_
      cases k <;> exact inv_intc h h.ivr
    · exact after_refused _
  | rmxRequest =>
    refine after_next fun h => inv_rmxFold h (fun c k => c.setRmxRequest k (rmxBit v k)) ?_ _
    intro c k
    cases k <;> exact ⟨rfl, rfl, rfl, rfl, rfl⟩
  | rmxService =>
    refine after_next fun h => inv_rmxFold h (fun c k => c.setRmx k { c.rmxSource k with isv := rmxBit v k }) ?_ _
    intro c k
    cases k <;> exact ⟨rfl, rfl, rfl, rfl, rfl⟩
  | rmxLevelMask => exact after_next fun h => inv_intc h h.ivr
  | rmxMask =>
    refine after_next fun h => inv_rmxFold h (fun c k => c.setRmx k { c.rmxSource k with msk := rmxBit v k }) ?_ _
    intro c k
    cases k <;> exact ⟨rfl, rfl, rfl, rfl, rfl⟩
  | rmxEoi => exact after_next fun h => inv_rmxEoi h v
  | rmxVector =>
    refine after_next fun h => inv_intc h ?_
    show v.extractLsb' 0 8 &&& 0xF8#8 &&& 0x07#8 = 0#8
    rw [BitVec.and_assoc]
    simp

theorem inv_readReg (s : State) (r : BlockReg) : KeepsInv s (s.readReg r).2 := by
  intro h
  cases r
  case pollStatus => simp only [State.readReg, State.readPollStatus]; split <;> exact inv_same h
  case poll =>
    simp only [State.readReg, State.readPoll]
    split
    · exact inv_acknowledged h (intRequest_of_presented ‹_›)
    · exact inv_same h
  all_goals exact inv_same h

theorem ctrlWf_after (d : DmaChannel) (b : Bool) (v : Word) (h : ctrlWf d = true) : ctrlWf (d.after b v) = true := by
  simp only [ctrlWf, DmaChannel.after, Bool.and_eq_true, Bool.not_eq_true'] at *
  split <;> simpa using h

theorem inv_dmaDone (s : State) (c : Channel) (v : Word) : KeepsInv s (s.dmaDone c v) := by
  intro h
  have hc := ctrlWf_after _ (s.servesTimer c) v (inv_chan h c)
  have h1 := inv_setChan h c hc
  refine ⟨h1.mem, h1.ch0, h1.ch1, h1.timer0, h1.timer1, h1.timer2, h1.reloc, ?_, h1.chip, ?_⟩
  · have := h.armed
    simp only [State.dmaDone]
    split
    · cases c <;> exact this
    · exact this
  · have := h.ivr
    simp only [State.dmaDone]
    split
    · cases c <;> exact this
    · exact this

/-- A request bit set keeps the pins' armed bits and the vector. -/
theorem inv_timerRequest {s : State} (h : Inv s) (k : TimerId) : Inv { s with intc := s.intc.timerRequest k } := by
  cases k <;> exact inv_intc h h.ivr

theorem inv_timerReached {s : State} (h : Inv s) (k : TimerId) : Inv (s.timerReached k) := by
  have h1 : Inv { s with intc := if (s.timers.get k).int then s.intc.timerRequest k else s.intc } := by
    split
    · exact inv_timerRequest h k
    · exact h
  cases k with
  | t0 | t1 => exact h1
  | t2 =>
    refine ⟨h1.mem, ?_, ?_, h1.timer0, h1.timer1, h1.timer2, h1.reloc, h1.armed, h1.chip, h1.ivr⟩
    · have := h.ch0
      simp only [State.timerReached, DmaChannel.timerAsks]
      split <;> exact this
    · have := h.ch1
      simp only [State.timerReached, DmaChannel.timerAsks]
      split <;> exact this

theorem inv_timerSlot {s : State} (h : Inv s) (k : TimerId) : Inv (s.timerSlot k) := by
  have h1 := inv_setTimer h k (timerWf_slot _ _ (s.timerPin k) (inv_timer h k))
  simp only [State.timerSlot]
  split
  · exact inv_timerReached h1 k
  · exact h1

/-- A pin seen LOW is armed (R492). -/
theorem inv_setPin {s : State} (h : Inv s) (p : Pin) (high : Bool) : Inv (s.setPin p high) := by
  have ha := h.armed
  cases p
  all_goals refine ⟨h.mem, h.ch0, h.ch1, h.timer0, h.timer1, h.timer2, h.reloc, ?_, h.chip, h.ivr⟩
  all_goals simp only [State.setPin, armedWf] at *
  all_goals cases high <;> simp_all

theorem inv_world (s : State) (w : World) : KeepsInv s (s.world w) := by
  intro h
  cases w with
  | slot k => exact inv_timerSlot h k
  | pin p high => exact inv_setPin h p high
  | inta | device | memDevice => exact inv_same h

/-- RES leaves the reset values and what is outside the chip (R620). -/
theorem inv_resetPulse {s : State} (h : s.mem.wf = true) : Inv s.resetPulse where
  mem := h
  ch0 := by show ctrlWf .reset = true; decide
  ch1 := by show ctrlWf .reset = true; decide
  timer0 := by show riuWf .reset = true; decide
  timer1 := by show riuWf .reset = true; decide
  timer2 := by show timer2Wf .reset = true; decide
  reloc := by show relocWf 0x20FF#16 = true; decide
  armed := by
    simp only [armedWf, State.resetPulse]
    cases s.pins.int0 <;> cases s.pins.int1 <;> cases s.pins.int2 <;> cases s.pins.int3 <;> rfl
  chip := by show chipWf State.reset.chip = true; decide
  ivr := by show State.reset.intc.ivr &&& 0x07#8 = 0#8; decide

/-- No bus operation breaks the invariant. -/
theorem busRel_inv : BusRel KeepsInv where
  refl _ h := h
  trans _ _ _ f g h := g (f h)
  storeByte _ a v h := inv_storeByte h a v
  setAgenda _ _ h := inv_same h
  drawn _ _ h := inv_same h
  logPort _ _ _ _ h := inv_same h
  logMem _ _ _ h := inv_same h
  world := inv_world
  readReg := inv_readReg
  writeReg := inv_writeReg
  dmaDone := inv_dmaDone

end Sys2Proof.Machine
end

