-- ==== Sys2Proof/Laws/PerInstr.lean ====
section
/-! SUPPORT. Statements about every instruction, one lemma per constructor. -/

namespace Sys2Proof.Laws

/-- Without its prefixes an instruction is one to six bytes long (R173, R194). -/
def EncodedLength.Statement (i : Instr) : Prop := 1 ≤ (encode i).length ∧ (encode i).length ≤ 6

/-- A memory operand takes one to three bytes (R176). -/
theorem encMem_length (b : BitVec 3) (m : MemRef) : (encMem b m).length ≤ 3 := by
  cases m <;> simp [encMem, encWord]

/-- An r/m operand takes one to three bytes (R175, R176). -/
theorem encRM_length (b : BitVec 3) (rm : RM) : (encRM b rm).length ≤ 3 := by
  cases rm with
  | reg r => simp [encRM]
  | mem m => exact encMem_length b m

/-- An immediate takes one or two bytes (R179). -/
theorem encImm_length (i : Imm) : (encImm i).length ≤ 2 := by
  cases i <;> simp [encImm, encWord]

/-- An opcode byte and at most five more. -/
theorem length_cons (x : Byte) {l : List Byte} (h : l.length ≤ 5) :
    1 ≤ (x :: l).length ∧ (x :: l).length ≤ 6 := by
  simp only [List.length_cons]; omega

/-- Two parts of at most three and two bytes. -/
theorem length_two {l m : List Byte} (h : l.length ≤ 3) (k : m.length ≤ 2) : (l ++ m).length ≤ 5 := by
  simp only [List.length_append]; omega

/-- At most three or two bytes are at most five. -/
theorem le_five {n k : Nat} (h : n ≤ k) (hk : k ≤ 5) : n ≤ 5 := h.trans hk

namespace EncodedLength

theorem movRmReg (w : Width) (rm : RM) (reg : Reg) : Statement (.movRmReg w rm reg) :=
  length_cons _ (le_five (encRM_length _ _) (Nat.le_of_ble_eq_true rfl))

theorem movRegRm (w : Width) (reg : Reg) (rm : RM) : Statement (.movRegRm w reg rm) :=
  length_cons _ (le_five (encRM_length _ _) (Nat.le_of_ble_eq_true rfl))

theorem movRmImm (rm : RM) (imm : Imm) : Statement (.movRmImm rm imm) :=
  length_cons _ (length_two (encRM_length _ _) (encImm_length _))

theorem movReg8Imm (reg : Reg) (imm : Byte) : Statement (.movReg8Imm reg imm) :=
  ⟨Nat.le_of_ble_eq_true rfl, Nat.le_of_ble_eq_true rfl⟩

theorem movReg16Imm (reg : Reg) (imm : Word) : Statement (.movReg16Imm reg imm) :=
  ⟨Nat.le_of_ble_eq_true rfl, Nat.le_of_ble_eq_true rfl⟩

theorem movAccMem (w : Width) (addr : Word) : Statement (.movAccMem w addr) :=
  ⟨Nat.le_of_ble_eq_true rfl, Nat.le_of_ble_eq_true rfl⟩

theorem movMemAcc (w : Width) (addr : Word) : Statement (.movMemAcc w addr) :=
  ⟨Nat.le_of_ble_eq_true rfl, Nat.le_of_ble_eq_true rfl⟩

theorem movSregRm (sreg : SegReg) (rm : RM) : Statement (.movSregRm sreg rm) :=
  length_cons _ (le_five (encRM_length _ _) (Nat.le_of_ble_eq_true rfl))

theorem movRmSreg (rm : RM) (sreg : SegReg) : Statement (.movRmSreg rm sreg) :=
  length_cons _ (le_five (encRM_length _ _) (Nat.le_of_ble_eq_true rfl))

theorem pushRm (rm : RM) : Statement (.pushRm rm) :=
  length_cons _ (le_five (encRM_length _ _) (Nat.le_of_ble_eq_true rfl))

theorem pushReg (reg : Reg) : Statement (.pushReg reg) :=
  ⟨Nat.le_of_ble_eq_true rfl, Nat.le_of_ble_eq_true rfl⟩

theorem pushEs : Statement .pushEs := ⟨Nat.le_of_ble_eq_true rfl, Nat.le_of_ble_eq_true rfl⟩

theorem pushCs : Statement .pushCs := ⟨Nat.le_of_ble_eq_true rfl, Nat.le_of_ble_eq_true rfl⟩

theorem pushSs : Statement .pushSs := ⟨Nat.le_of_ble_eq_true rfl, Nat.le_of_ble_eq_true rfl⟩

theorem pushDs : Statement .pushDs := ⟨Nat.le_of_ble_eq_true rfl, Nat.le_of_ble_eq_true rfl⟩

theorem pushImm16 (imm : Word) : Statement (.pushImm16 imm) :=
  ⟨Nat.le_of_ble_eq_true rfl, Nat.le_of_ble_eq_true rfl⟩

theorem pushImm8 (imm : Byte) : Statement (.pushImm8 imm) :=
  ⟨Nat.le_of_ble_eq_true rfl, Nat.le_of_ble_eq_true rfl⟩

theorem pusha : Statement .pusha := ⟨Nat.le_of_ble_eq_true rfl, Nat.le_of_ble_eq_true rfl⟩

theorem popRm (rm : RM) : Statement (.popRm rm) :=
  length_cons _ (le_five (encRM_length _ _) (Nat.le_of_ble_eq_true rfl))

theorem popReg (reg : Reg) : Statement (.popReg reg) := ⟨Nat.le_of_ble_eq_true rfl, Nat.le_of_ble_eq_true rfl⟩

theorem popEs : Statement .popEs := ⟨Nat.le_of_ble_eq_true rfl, Nat.le_of_ble_eq_true rfl⟩

theorem popSs : Statement .popSs := ⟨Nat.le_of_ble_eq_true rfl, Nat.le_of_ble_eq_true rfl⟩

theorem popDs : Statement .popDs := ⟨Nat.le_of_ble_eq_true rfl, Nat.le_of_ble_eq_true rfl⟩

theorem popa : Statement .popa := ⟨Nat.le_of_ble_eq_true rfl, Nat.le_of_ble_eq_true rfl⟩

theorem xchgRmReg (w : Width) (rm : RM) (reg : Reg) : Statement (.xchgRmReg w rm reg) :=
  length_cons _ (le_five (encRM_length _ _) (Nat.le_of_ble_eq_true rfl))

theorem nop : Statement .nop := ⟨Nat.le_of_ble_eq_true rfl, Nat.le_of_ble_eq_true rfl⟩

theorem xchgAxReg (reg : Reg) : Statement (.xchgAxReg reg) :=
  ⟨Nat.le_of_ble_eq_true rfl, Nat.le_of_ble_eq_true rfl⟩

theorem inAccPort (w : Width) (port : Byte) : Statement (.inAccPort w port) :=
  ⟨Nat.le_of_ble_eq_true rfl, Nat.le_of_ble_eq_true rfl⟩

theorem inAccDx (w : Width) : Statement (.inAccDx w) := ⟨Nat.le_of_ble_eq_true rfl, Nat.le_of_ble_eq_true rfl⟩

theorem outPortAcc (w : Width) (port : Byte) : Statement (.outPortAcc w port) :=
  ⟨Nat.le_of_ble_eq_true rfl, Nat.le_of_ble_eq_true rfl⟩

theorem outDxAcc (w : Width) : Statement (.outDxAcc w) :=
  ⟨Nat.le_of_ble_eq_true rfl, Nat.le_of_ble_eq_true rfl⟩

theorem xlat : Statement .xlat := ⟨Nat.le_of_ble_eq_true rfl, Nat.le_of_ble_eq_true rfl⟩

theorem lea (reg : Reg) (mem : MemRef) : Statement (.lea reg mem) :=
  length_cons _ (le_five (encMem_length _ _) (Nat.le_of_ble_eq_true rfl))

theorem lds (reg : Reg) (mem : MemRef) : Statement (.lds reg mem) :=
  length_cons _ (le_five (encMem_length _ _) (Nat.le_of_ble_eq_true rfl))

theorem les (reg : Reg) (mem : MemRef) : Statement (.les reg mem) :=
  length_cons _ (le_five (encMem_length _ _) (Nat.le_of_ble_eq_true rfl))

theorem lahf : Statement .lahf := ⟨Nat.le_of_ble_eq_true rfl, Nat.le_of_ble_eq_true rfl⟩

theorem sahf : Statement .sahf := ⟨Nat.le_of_ble_eq_true rfl, Nat.le_of_ble_eq_true rfl⟩

theorem pushf : Statement .pushf := ⟨Nat.le_of_ble_eq_true rfl, Nat.le_of_ble_eq_true rfl⟩

theorem popf : Statement .popf := ⟨Nat.le_of_ble_eq_true rfl, Nat.le_of_ble_eq_true rfl⟩

theorem addRmReg (d : Dir) (w : Width) (rm : RM) (reg : Reg) : Statement (.addRmReg d w rm reg) :=
  length_cons _ (le_five (encRM_length _ _) (Nat.le_of_ble_eq_true rfl))

theorem addRmImm (rm : RM) (imm : Imm) : Statement (.addRmImm rm imm) :=
  length_cons _ (length_two (encRM_length _ _) (encImm_length _))

theorem addRm8Imm8 (rm : RM) (imm : Byte) : Statement (.addRm8Imm8 rm imm) :=
  length_cons _ (length_two (encRM_length _ _) (Nat.le_of_ble_eq_true rfl))

theorem addRm16Imm8 (rm : RM) (imm : Byte) : Statement (.addRm16Imm8 rm imm) :=
  length_cons _ (length_two (encRM_length _ _) (Nat.le_of_ble_eq_true rfl))

theorem addAccImm (imm : Imm) : Statement (.addAccImm imm) :=
  length_cons _ (le_five (encImm_length _) (Nat.le_of_ble_eq_true rfl))

theorem adcRmReg (d : Dir) (w : Width) (rm : RM) (reg : Reg) : Statement (.adcRmReg d w rm reg) :=
  length_cons _ (le_five (encRM_length _ _) (Nat.le_of_ble_eq_true rfl))

theorem adcRmImm (rm : RM) (imm : Imm) : Statement (.adcRmImm rm imm) :=
  length_cons _ (length_two (encRM_length _ _) (encImm_length _))

theorem adcRm8Imm8 (rm : RM) (imm : Byte) : Statement (.adcRm8Imm8 rm imm) :=
  length_cons _ (length_two (encRM_length _ _) (Nat.le_of_ble_eq_true rfl))

theorem adcRm16Imm8 (rm : RM) (imm : Byte) : Statement (.adcRm16Imm8 rm imm) :=
  length_cons _ (length_two (encRM_length _ _) (Nat.le_of_ble_eq_true rfl))

theorem adcAccImm (imm : Imm) : Statement (.adcAccImm imm) :=
  length_cons _ (le_five (encImm_length _) (Nat.le_of_ble_eq_true rfl))

theorem subRmReg (d : Dir) (w : Width) (rm : RM) (reg : Reg) : Statement (.subRmReg d w rm reg) :=
  length_cons _ (le_five (encRM_length _ _) (Nat.le_of_ble_eq_true rfl))

theorem subRmImm (rm : RM) (imm : Imm) : Statement (.subRmImm rm imm) :=
  length_cons _ (length_two (encRM_length _ _) (encImm_length _))

theorem subRm8Imm8 (rm : RM) (imm : Byte) : Statement (.subRm8Imm8 rm imm) :=
  length_cons _ (length_two (encRM_length _ _) (Nat.le_of_ble_eq_true rfl))

theorem subRm16Imm8 (rm : RM) (imm : Byte) : Statement (.subRm16Imm8 rm imm) :=
  length_cons _ (length_two (encRM_length _ _) (Nat.le_of_ble_eq_true rfl))

theorem subAccImm (imm : Imm) : Statement (.subAccImm imm) :=
  length_cons _ (le_five (encImm_length _) (Nat.le_of_ble_eq_true rfl))

theorem sbbRmReg (d : Dir) (w : Width) (rm : RM) (reg : Reg) : Statement (.sbbRmReg d w rm reg) :=
  length_cons _ (le_five (encRM_length _ _) (Nat.le_of_ble_eq_true rfl))

theorem sbbRmImm (rm : RM) (imm : Imm) : Statement (.sbbRmImm rm imm) :=
  length_cons _ (length_two (encRM_length _ _) (encImm_length _))

theorem sbbRm8Imm8 (rm : RM) (imm : Byte) : Statement (.sbbRm8Imm8 rm imm) :=
  length_cons _ (length_two (encRM_length _ _) (Nat.le_of_ble_eq_true rfl))

theorem sbbRm16Imm8 (rm : RM) (imm : Byte) : Statement (.sbbRm16Imm8 rm imm) :=
  length_cons _ (length_two (encRM_length _ _) (Nat.le_of_ble_eq_true rfl))

theorem sbbAccImm (imm : Imm) : Statement (.sbbAccImm imm) :=
  length_cons _ (le_five (encImm_length _) (Nat.le_of_ble_eq_true rfl))

theorem cmpRmReg (d : Dir) (w : Width) (rm : RM) (reg : Reg) : Statement (.cmpRmReg d w rm reg) :=
  length_cons _ (le_five (encRM_length _ _) (Nat.le_of_ble_eq_true rfl))

theorem cmpRmImm (rm : RM) (imm : Imm) : Statement (.cmpRmImm rm imm) :=
  length_cons _ (length_two (encRM_length _ _) (encImm_length _))

theorem cmpRm8Imm8 (rm : RM) (imm : Byte) : Statement (.cmpRm8Imm8 rm imm) :=
  length_cons _ (length_two (encRM_length _ _) (Nat.le_of_ble_eq_true rfl))

theorem cmpRm16Imm8 (rm : RM) (imm : Byte) : Statement (.cmpRm16Imm8 rm imm) :=
  length_cons _ (length_two (encRM_length _ _) (Nat.le_of_ble_eq_true rfl))

theorem cmpAccImm (imm : Imm) : Statement (.cmpAccImm imm) :=
  length_cons _ (le_five (encImm_length _) (Nat.le_of_ble_eq_true rfl))

theorem andRmReg (d : Dir) (w : Width) (rm : RM) (reg : Reg) : Statement (.andRmReg d w rm reg) :=
  length_cons _ (le_five (encRM_length _ _) (Nat.le_of_ble_eq_true rfl))

theorem andRmImm (rm : RM) (imm : Imm) : Statement (.andRmImm rm imm) :=
  length_cons _ (length_two (encRM_length _ _) (encImm_length _))

theorem andAccImm (imm : Imm) : Statement (.andAccImm imm) :=
  length_cons _ (le_five (encImm_length _) (Nat.le_of_ble_eq_true rfl))

theorem orRmReg (d : Dir) (w : Width) (rm : RM) (reg : Reg) : Statement (.orRmReg d w rm reg) :=
  length_cons _ (le_five (encRM_length _ _) (Nat.le_of_ble_eq_true rfl))

theorem orRmImm (rm : RM) (imm : Imm) : Statement (.orRmImm rm imm) :=
  length_cons _ (length_two (encRM_length _ _) (encImm_length _))

theorem orAccImm (imm : Imm) : Statement (.orAccImm imm) :=
  length_cons _ (le_five (encImm_length _) (Nat.le_of_ble_eq_true rfl))

theorem xorRmReg (d : Dir) (w : Width) (rm : RM) (reg : Reg) : Statement (.xorRmReg d w rm reg) :=
  length_cons _ (le_five (encRM_length _ _) (Nat.le_of_ble_eq_true rfl))

theorem xorRmImm (rm : RM) (imm : Imm) : Statement (.xorRmImm rm imm) :=
  length_cons _ (length_two (encRM_length _ _) (encImm_length _))

theorem xorAccImm (imm : Imm) : Statement (.xorAccImm imm) :=
  length_cons _ (le_five (encImm_length _) (Nat.le_of_ble_eq_true rfl))

theorem incRm (w : Width) (rm : RM) : Statement (.incRm w rm) :=
  length_cons _ (le_five (encRM_length _ _) (Nat.le_of_ble_eq_true rfl))

theorem incReg (reg : Reg) : Statement (.incReg reg) := ⟨Nat.le_of_ble_eq_true rfl, Nat.le_of_ble_eq_true rfl⟩

theorem decRm (w : Width) (rm : RM) : Statement (.decRm w rm) :=
  length_cons _ (le_five (encRM_length _ _) (Nat.le_of_ble_eq_true rfl))

theorem decReg (reg : Reg) : Statement (.decReg reg) := ⟨Nat.le_of_ble_eq_true rfl, Nat.le_of_ble_eq_true rfl⟩

theorem testRmImm (rm : RM) (imm : Imm) : Statement (.testRmImm rm imm) :=
  length_cons _ (length_two (encRM_length _ _) (encImm_length _))

theorem notRm (w : Width) (rm : RM) : Statement (.notRm w rm) :=
  length_cons _ (le_five (encRM_length _ _) (Nat.le_of_ble_eq_true rfl))

theorem negRm (w : Width) (rm : RM) : Statement (.negRm w rm) :=
  length_cons _ (le_five (encRM_length _ _) (Nat.le_of_ble_eq_true rfl))

theorem mulRm (w : Width) (rm : RM) : Statement (.mulRm w rm) :=
  length_cons _ (le_five (encRM_length _ _) (Nat.le_of_ble_eq_true rfl))

theorem imulRm (w : Width) (rm : RM) : Statement (.imulRm w rm) :=
  length_cons _ (le_five (encRM_length _ _) (Nat.le_of_ble_eq_true rfl))

theorem divRm (w : Width) (rm : RM) : Statement (.divRm w rm) :=
  length_cons _ (le_five (encRM_length _ _) (Nat.le_of_ble_eq_true rfl))

theorem idivRm (w : Width) (rm : RM) : Statement (.idivRm w rm) :=
  length_cons _ (le_five (encRM_length _ _) (Nat.le_of_ble_eq_true rfl))

theorem imulRegRmImm16 (reg : Reg) (rm : RM) (imm : Word) : Statement (.imulRegRmImm16 reg rm imm) :=
  length_cons _ (length_two (encRM_length _ _) (Nat.le_of_ble_eq_true rfl))

theorem imulRegRmImm8 (reg : Reg) (rm : RM) (imm : Byte) : Statement (.imulRegRmImm8 reg rm imm) :=
  length_cons _ (length_two (encRM_length _ _) (Nat.le_of_ble_eq_true rfl))

theorem aaa : Statement .aaa := ⟨Nat.le_of_ble_eq_true rfl, Nat.le_of_ble_eq_true rfl⟩

theorem aas : Statement .aas := ⟨Nat.le_of_ble_eq_true rfl, Nat.le_of_ble_eq_true rfl⟩

theorem daa : Statement .daa := ⟨Nat.le_of_ble_eq_true rfl, Nat.le_of_ble_eq_true rfl⟩

theorem das : Statement .das := ⟨Nat.le_of_ble_eq_true rfl, Nat.le_of_ble_eq_true rfl⟩

theorem aam : Statement .aam := ⟨Nat.le_of_ble_eq_true rfl, Nat.le_of_ble_eq_true rfl⟩

theorem aad : Statement .aad := ⟨Nat.le_of_ble_eq_true rfl, Nat.le_of_ble_eq_true rfl⟩

theorem cbw : Statement .cbw := ⟨Nat.le_of_ble_eq_true rfl, Nat.le_of_ble_eq_true rfl⟩

theorem cwd : Statement .cwd := ⟨Nat.le_of_ble_eq_true rfl, Nat.le_of_ble_eq_true rfl⟩

theorem testRmReg (w : Width) (rm : RM) (reg : Reg) : Statement (.testRmReg w rm reg) :=
  length_cons _ (le_five (encRM_length _ _) (Nat.le_of_ble_eq_true rfl))

theorem testAccImm (imm : Imm) : Statement (.testAccImm imm) :=
  length_cons _ (le_five (encImm_length _) (Nat.le_of_ble_eq_true rfl))

theorem rolRm1 (w : Width) (rm : RM) : Statement (.rolRm1 w rm) :=
  length_cons _ (le_five (encRM_length _ _) (Nat.le_of_ble_eq_true rfl))

theorem rolRmCl (w : Width) (rm : RM) : Statement (.rolRmCl w rm) :=
  length_cons _ (le_five (encRM_length _ _) (Nat.le_of_ble_eq_true rfl))

theorem rolRmImm (w : Width) (rm : RM) (count : Byte) : Statement (.rolRmImm w rm count) :=
  length_cons _ (length_two (encRM_length _ _) (Nat.le_of_ble_eq_true rfl))

theorem rorRm1 (w : Width) (rm : RM) : Statement (.rorRm1 w rm) :=
  length_cons _ (le_five (encRM_length _ _) (Nat.le_of_ble_eq_true rfl))

theorem rorRmCl (w : Width) (rm : RM) : Statement (.rorRmCl w rm) :=
  length_cons _ (le_five (encRM_length _ _) (Nat.le_of_ble_eq_true rfl))

theorem rorRmImm (w : Width) (rm : RM) (count : Byte) : Statement (.rorRmImm w rm count) :=
  length_cons _ (length_two (encRM_length _ _) (Nat.le_of_ble_eq_true rfl))

theorem rclRm1 (w : Width) (rm : RM) : Statement (.rclRm1 w rm) :=
  length_cons _ (le_five (encRM_length _ _) (Nat.le_of_ble_eq_true rfl))

theorem rclRmCl (w : Width) (rm : RM) : Statement (.rclRmCl w rm) :=
  length_cons _ (le_five (encRM_length _ _) (Nat.le_of_ble_eq_true rfl))

theorem rclRmImm (w : Width) (rm : RM) (count : Byte) : Statement (.rclRmImm w rm count) :=
  length_cons _ (length_two (encRM_length _ _) (Nat.le_of_ble_eq_true rfl))

theorem rcrRm1 (w : Width) (rm : RM) : Statement (.rcrRm1 w rm) :=
  length_cons _ (le_five (encRM_length _ _) (Nat.le_of_ble_eq_true rfl))

theorem rcrRmCl (w : Width) (rm : RM) : Statement (.rcrRmCl w rm) :=
  length_cons _ (le_five (encRM_length _ _) (Nat.le_of_ble_eq_true rfl))

theorem rcrRmImm (w : Width) (rm : RM) (count : Byte) : Statement (.rcrRmImm w rm count) :=
  length_cons _ (length_two (encRM_length _ _) (Nat.le_of_ble_eq_true rfl))

theorem shlRm1 (w : Width) (rm : RM) : Statement (.shlRm1 w rm) :=
  length_cons _ (le_five (encRM_length _ _) (Nat.le_of_ble_eq_true rfl))

theorem shlRmCl (w : Width) (rm : RM) : Statement (.shlRmCl w rm) :=
  length_cons _ (le_five (encRM_length _ _) (Nat.le_of_ble_eq_true rfl))

theorem shlRmImm (w : Width) (rm : RM) (count : Byte) : Statement (.shlRmImm w rm count) :=
  length_cons _ (length_two (encRM_length _ _) (Nat.le_of_ble_eq_true rfl))

theorem shrRm1 (w : Width) (rm : RM) : Statement (.shrRm1 w rm) :=
  length_cons _ (le_five (encRM_length _ _) (Nat.le_of_ble_eq_true rfl))

theorem shrRmCl (w : Width) (rm : RM) : Statement (.shrRmCl w rm) :=
  length_cons _ (le_five (encRM_length _ _) (Nat.le_of_ble_eq_true rfl))

theorem shrRmImm (w : Width) (rm : RM) (count : Byte) : Statement (.shrRmImm w rm count) :=
  length_cons _ (length_two (encRM_length _ _) (Nat.le_of_ble_eq_true rfl))

theorem sarRm1 (w : Width) (rm : RM) : Statement (.sarRm1 w rm) :=
  length_cons _ (le_five (encRM_length _ _) (Nat.le_of_ble_eq_true rfl))

theorem sarRmCl (w : Width) (rm : RM) : Statement (.sarRmCl w rm) :=
  length_cons _ (le_five (encRM_length _ _) (Nat.le_of_ble_eq_true rfl))

theorem sarRmImm (w : Width) (rm : RM) (count : Byte) : Statement (.sarRmImm w rm count) :=
  length_cons _ (length_two (encRM_length _ _) (Nat.le_of_ble_eq_true rfl))

theorem movs (w : Width) : Statement (.movs w) := ⟨Nat.le_of_ble_eq_true rfl, Nat.le_of_ble_eq_true rfl⟩

theorem cmps (w : Width) : Statement (.cmps w) := ⟨Nat.le_of_ble_eq_true rfl, Nat.le_of_ble_eq_true rfl⟩

theorem scas (w : Width) : Statement (.scas w) := ⟨Nat.le_of_ble_eq_true rfl, Nat.le_of_ble_eq_true rfl⟩

theorem lods (w : Width) : Statement (.lods w) := ⟨Nat.le_of_ble_eq_true rfl, Nat.le_of_ble_eq_true rfl⟩

theorem stos (w : Width) : Statement (.stos w) := ⟨Nat.le_of_ble_eq_true rfl, Nat.le_of_ble_eq_true rfl⟩

theorem ins (w : Width) : Statement (.ins w) := ⟨Nat.le_of_ble_eq_true rfl, Nat.le_of_ble_eq_true rfl⟩

theorem outs (w : Width) : Statement (.outs w) := ⟨Nat.le_of_ble_eq_true rfl, Nat.le_of_ble_eq_true rfl⟩

theorem rep (z : Bool) : Statement (.rep z) := ⟨Nat.le_of_ble_eq_true rfl, Nat.le_of_ble_eq_true rfl⟩

theorem callNear (disp : Word) : Statement (.callNear disp) :=
  ⟨Nat.le_of_ble_eq_true rfl, Nat.le_of_ble_eq_true rfl⟩

theorem callNearRm (rm : RM) : Statement (.callNearRm rm) :=
  length_cons _ (le_five (encRM_length _ _) (Nat.le_of_ble_eq_true rfl))

theorem callFar (off : Word) (seg : Word) : Statement (.callFar off seg) :=
  ⟨Nat.le_of_ble_eq_true rfl, Nat.le_of_ble_eq_true rfl⟩

theorem callFarMem (mem : MemRef) : Statement (.callFarMem mem) :=
  length_cons _ (le_five (encMem_length _ _) (Nat.le_of_ble_eq_true rfl))

theorem jmpShort (disp : Byte) : Statement (.jmpShort disp) :=
  ⟨Nat.le_of_ble_eq_true rfl, Nat.le_of_ble_eq_true rfl⟩

theorem jmpNear (disp : Word) : Statement (.jmpNear disp) :=
  ⟨Nat.le_of_ble_eq_true rfl, Nat.le_of_ble_eq_true rfl⟩

theorem jmpNearRm (rm : RM) : Statement (.jmpNearRm rm) :=
  length_cons _ (le_five (encRM_length _ _) (Nat.le_of_ble_eq_true rfl))

theorem jmpFar (off : Word) (seg : Word) : Statement (.jmpFar off seg) :=
  ⟨Nat.le_of_ble_eq_true rfl, Nat.le_of_ble_eq_true rfl⟩

theorem jmpFarMem (mem : MemRef) : Statement (.jmpFarMem mem) :=
  length_cons _ (le_five (encMem_length _ _) (Nat.le_of_ble_eq_true rfl))

theorem retNear : Statement .retNear := ⟨Nat.le_of_ble_eq_true rfl, Nat.le_of_ble_eq_true rfl⟩

theorem retNearImm (k : Word) : Statement (.retNearImm k) :=
  ⟨Nat.le_of_ble_eq_true rfl, Nat.le_of_ble_eq_true rfl⟩

theorem retFar : Statement .retFar := ⟨Nat.le_of_ble_eq_true rfl, Nat.le_of_ble_eq_true rfl⟩

theorem retFarImm (k : Word) : Statement (.retFarImm k) :=
  ⟨Nat.le_of_ble_eq_true rfl, Nat.le_of_ble_eq_true rfl⟩

theorem jo (disp : Byte) : Statement (.jo disp) := ⟨Nat.le_of_ble_eq_true rfl, Nat.le_of_ble_eq_true rfl⟩

theorem jno (disp : Byte) : Statement (.jno disp) := ⟨Nat.le_of_ble_eq_true rfl, Nat.le_of_ble_eq_true rfl⟩

theorem jb (disp : Byte) : Statement (.jb disp) := ⟨Nat.le_of_ble_eq_true rfl, Nat.le_of_ble_eq_true rfl⟩

theorem jnb (disp : Byte) : Statement (.jnb disp) := ⟨Nat.le_of_ble_eq_true rfl, Nat.le_of_ble_eq_true rfl⟩

theorem je (disp : Byte) : Statement (.je disp) := ⟨Nat.le_of_ble_eq_true rfl, Nat.le_of_ble_eq_true rfl⟩

theorem jne (disp : Byte) : Statement (.jne disp) := ⟨Nat.le_of_ble_eq_true rfl, Nat.le_of_ble_eq_true rfl⟩

theorem jbe (disp : Byte) : Statement (.jbe disp) := ⟨Nat.le_of_ble_eq_true rfl, Nat.le_of_ble_eq_true rfl⟩

theorem jnbe (disp : Byte) : Statement (.jnbe disp) := ⟨Nat.le_of_ble_eq_true rfl, Nat.le_of_ble_eq_true rfl⟩

theorem js (disp : Byte) : Statement (.js disp) := ⟨Nat.le_of_ble_eq_true rfl, Nat.le_of_ble_eq_true rfl⟩

theorem jns (disp : Byte) : Statement (.jns disp) := ⟨Nat.le_of_ble_eq_true rfl, Nat.le_of_ble_eq_true rfl⟩

theorem jp (disp : Byte) : Statement (.jp disp) := ⟨Nat.le_of_ble_eq_true rfl, Nat.le_of_ble_eq_true rfl⟩

theorem jnp (disp : Byte) : Statement (.jnp disp) := ⟨Nat.le_of_ble_eq_true rfl, Nat.le_of_ble_eq_true rfl⟩

theorem jl (disp : Byte) : Statement (.jl disp) := ⟨Nat.le_of_ble_eq_true rfl, Nat.le_of_ble_eq_true rfl⟩

theorem jnl (disp : Byte) : Statement (.jnl disp) := ⟨Nat.le_of_ble_eq_true rfl, Nat.le_of_ble_eq_true rfl⟩

theorem jle (disp : Byte) : Statement (.jle disp) := ⟨Nat.le_of_ble_eq_true rfl, Nat.le_of_ble_eq_true rfl⟩

theorem jnle (disp : Byte) : Statement (.jnle disp) := ⟨Nat.le_of_ble_eq_true rfl, Nat.le_of_ble_eq_true rfl⟩

theorem loop (disp : Byte) : Statement (.loop disp) := ⟨Nat.le_of_ble_eq_true rfl, Nat.le_of_ble_eq_true rfl⟩

theorem loopz (disp : Byte) : Statement (.loopz disp) :=
  ⟨Nat.le_of_ble_eq_true rfl, Nat.le_of_ble_eq_true rfl⟩

theorem loopnz (disp : Byte) : Statement (.loopnz disp) :=
  ⟨Nat.le_of_ble_eq_true rfl, Nat.le_of_ble_eq_true rfl⟩

theorem jcxz (disp : Byte) : Statement (.jcxz disp) := ⟨Nat.le_of_ble_eq_true rfl, Nat.le_of_ble_eq_true rfl⟩

theorem intType (type : Byte) : Statement (.intType type) :=
  ⟨Nat.le_of_ble_eq_true rfl, Nat.le_of_ble_eq_true rfl⟩

theorem int3 : Statement .int3 := ⟨Nat.le_of_ble_eq_true rfl, Nat.le_of_ble_eq_true rfl⟩

theorem into : Statement .into := ⟨Nat.le_of_ble_eq_true rfl, Nat.le_of_ble_eq_true rfl⟩

theorem iret : Statement .iret := ⟨Nat.le_of_ble_eq_true rfl, Nat.le_of_ble_eq_true rfl⟩

theorem enter (size : Word) (level : Byte) : Statement (.enter size level) :=
  ⟨Nat.le_of_ble_eq_true rfl, Nat.le_of_ble_eq_true rfl⟩

theorem leave : Statement .leave := ⟨Nat.le_of_ble_eq_true rfl, Nat.le_of_ble_eq_true rfl⟩

theorem bound (reg : Reg) (mem : MemRef) : Statement (.bound reg mem) :=
  length_cons _ (le_five (encMem_length _ _) (Nat.le_of_ble_eq_true rfl))

theorem clc : Statement .clc := ⟨Nat.le_of_ble_eq_true rfl, Nat.le_of_ble_eq_true rfl⟩

theorem stc : Statement .stc := ⟨Nat.le_of_ble_eq_true rfl, Nat.le_of_ble_eq_true rfl⟩

theorem cmc : Statement .cmc := ⟨Nat.le_of_ble_eq_true rfl, Nat.le_of_ble_eq_true rfl⟩

theorem cld : Statement .cld := ⟨Nat.le_of_ble_eq_true rfl, Nat.le_of_ble_eq_true rfl⟩

theorem std : Statement .std := ⟨Nat.le_of_ble_eq_true rfl, Nat.le_of_ble_eq_true rfl⟩

theorem cli : Statement .cli := ⟨Nat.le_of_ble_eq_true rfl, Nat.le_of_ble_eq_true rfl⟩

theorem sti : Statement .sti := ⟨Nat.le_of_ble_eq_true rfl, Nat.le_of_ble_eq_true rfl⟩

theorem hlt : Statement .hlt := ⟨Nat.le_of_ble_eq_true rfl, Nat.le_of_ble_eq_true rfl⟩

theorem wait : Statement .wait := ⟨Nat.le_of_ble_eq_true rfl, Nat.le_of_ble_eq_true rfl⟩

theorem lock : Statement .lock := ⟨Nat.le_of_ble_eq_true rfl, Nat.le_of_ble_eq_true rfl⟩

theorem esc (ttt : BitVec 3) (lll : BitVec 3) (rm : RM) : Statement (.esc ttt lll rm) :=
  length_cons _ (le_five (encRM_length _ _) (Nat.le_of_ble_eq_true rfl))

theorem segEs : Statement .segEs := ⟨Nat.le_of_ble_eq_true rfl, Nat.le_of_ble_eq_true rfl⟩

theorem segCs : Statement .segCs := ⟨Nat.le_of_ble_eq_true rfl, Nat.le_of_ble_eq_true rfl⟩

theorem segSs : Statement .segSs := ⟨Nat.le_of_ble_eq_true rfl, Nat.le_of_ble_eq_true rfl⟩

theorem segDs : Statement .segDs := ⟨Nat.le_of_ble_eq_true rfl, Nat.le_of_ble_eq_true rfl⟩

end EncodedLength

end Sys2Proof.Laws
end

