-- ==== Sys2Proof/Tests/Slice0.lean ====
section
/-! SUPPORT. Tests on fixed values: what the checks refuse, words written out from the encodings, one step of each
instruction, and for every statement with hypotheses a state that meets them. A test named after a vector of
`spec/95_test_vectors.md` (DT1, AR15b, ...) takes its start state and its result from there; one named `rule` was
worked out by hand from the instruction's rule. -/

set_option Elab.async false

namespace Sys2Proof.Tests

open Sys2Proof.Machine Sys2Proof.Safety

/-! ### Building states -/

/-- The common start state of `spec/95_test_vectors.md`, section 1. -/
def start : State :=
  { State.reset with
    regs := { State.reset.regs with sp := 0x100 }
    segs := { es := 0x3000, cs := 0x1000, ss := 0x2000, ds := 0x4000 }
    ip := 0x100 }

/-- A byte of memory. -/
def byte (a : Nat) (v : Byte) (s : State) : State := { s with mem := s.mem.put a v }

/-- A word of memory, low byte first. -/
def word (a : Nat) (v : Word) (s : State) : State := byte (a + 1) (Word.high v) (byte a (Word.low v) s)

/-- A 16-bit register. -/
def setR (r : Reg) (v : Word) (s : State) : State := s.setReg .word r v

/-- A segment register. -/
def setS (r : SegReg) (v : Word) (s : State) : State := s.setSeg r v

/-- The status word. -/
def setF (v : Word) (s : State) : State := s.setFlags (Flags.ofImage v)

/-- What a port presents. -/
def port (p : Nat) (v : Byte) (s : State) : State := { s with ports := portSet s.ports p v }

/-- An entry of the vector table, to segment F000H. -/
def entry (n : Nat) (ip : Word) (s : State) : State := word (4 * n + 2) 0xF000 (word (4 * n) ip s)

/-- The vector table of `spec/95_test_vectors.md`, section 1. -/
def ivt (s : State) : State :=
  s |> entry 0 0x500 |> entry 1 0x510 |> entry 2 0x520 |> entry 3 0x530 |> entry 4 0x540 |> entry 5 0x550
    |> entry 6 0x560 |> entry 7 0x570 |> entry 33 0x600

/-- Instruction bytes at CS:IP. -/
def code (b : List Byte) (s : State) : State := { s with mem := placeBytes s.segs.cs s.ip b s.mem }

/-- A register of the control block written. -/
def wr (off : Byte) (v : Word) (s : State) : State :=
  match s.writeBlock off v with
  | .next t => t
  | _ => s

/-- Two steps, for a prefix and its instruction. -/
def twoSteps (s : State) : Out := andThen (step s) step

/-- There is a next state, and it looks so. -/
def sees (x : Out) (p : State → Bool) : Bool :=
  match x with
  | .next t => p t
  | _ => false

/-- There is a next state. -/
def completes (x : Out) : Bool := sees x fun _ => true

theorem next_of_completes {x : Out} (h : completes x = true) : ∃ t, x = .next t := by
  cases x with
  | next t => exact ⟨t, rfl⟩
  | fault r => simp [completes, sees] at h
  | refused r => simp [completes, sees] at h

/-- There is none, and the reason is this. -/
def stops (x : Out) (r : Refusal) : Bool :=
  match x with
  | .refused q => decide (q = r)
  | _ => false

/-- The six arithmetic flags, `CPAZSO` of `spec/95_test_vectors.md`; none is not tested. -/
def flagsAre (f : Flags) (c p a z s v : Option Bool) : Bool :=
  (c.all (· == f.cf)) && (p.all (· == f.pf)) && (a.all (· == f.af)) && (z.all (· == f.zf)) && (s.all (· == f.sf)) &&
    (v.all (· == f.ofl))

/-- Every word of the list decodes, alone and before other bytes, to its instruction and whole length; the encoder
gives the word back. -/
def decodes (l : List (List Byte × Instr)) : Bool :=
  l.all fun (b, i) =>
    decide (decode b = .instr i b.length) && decide (decode (b ++ [0xFF, 0x0F]) = .instr i b.length) && i.wf &&
      decide (encode i = b)

/-! ### Well-formed instructions -/

theorem test_wf_plain_bp : (RM.mem (.plain .bp)).wf = false ∧ (RM.mem (.disp8 .bp 0)).wf = true := by decide

theorem test_wf_mov_cs :
    (Instr.movSregRm .cs (.reg .ax_al)).wf = false ∧ (Instr.movSregRm .ds (.reg .ax_al)).wf = true := by decide

theorem test_wf_mov_sreg_operand : (Instr.movSregRm .ds (.mem (.plain .bp))).wf = false := by decide

theorem test_wf_xchg_ax : (Instr.xchgAxReg .ax_al).wf = false ∧ (Instr.xchgAxReg .cx_cl).wf = true := by decide

/-- No instruction takes a plain BP operand. -/
def withPlainBp : List Instr :=
  [
    .movRmReg .word (.mem (.plain .bp)) .ax_al, .movRegRm .word .ax_al (.mem (.plain .bp)),
    .movRmImm (.mem (.plain .bp)) (.byte 0), .movRmSreg (.mem (.plain .bp)) .ds, .pushRm (.mem (.plain .bp)),
    .popRm (.mem (.plain .bp)), .xchgRmReg .word (.mem (.plain .bp)) .ax_al, .lea .ax_al (.plain .bp),
    .lds .ax_al (.plain .bp), .les .ax_al (.plain .bp), .addRmReg .toRm .word (.mem (.plain .bp)) .ax_al,
    .addRmImm (.mem (.plain .bp)) (.byte 0), .addRm8Imm8 (.mem (.plain .bp)) 0, .addRm16Imm8 (.mem (.plain .bp)) 0,
    .adcRmReg .toRm .word (.mem (.plain .bp)) .ax_al, .adcRmImm (.mem (.plain .bp)) (.byte 0),
    .adcRm8Imm8 (.mem (.plain .bp)) 0, .adcRm16Imm8 (.mem (.plain .bp)) 0,
    .subRmReg .toRm .word (.mem (.plain .bp)) .ax_al, .subRmImm (.mem (.plain .bp)) (.byte 0),
    .subRm8Imm8 (.mem (.plain .bp)) 0, .subRm16Imm8 (.mem (.plain .bp)) 0,
    .sbbRmReg .toRm .word (.mem (.plain .bp)) .ax_al, .sbbRmImm (.mem (.plain .bp)) (.byte 0),
    .sbbRm8Imm8 (.mem (.plain .bp)) 0, .sbbRm16Imm8 (.mem (.plain .bp)) 0,
    .cmpRmReg .toRm .word (.mem (.plain .bp)) .ax_al, .cmpRmImm (.mem (.plain .bp)) (.byte 0),
    .cmpRm8Imm8 (.mem (.plain .bp)) 0, .cmpRm16Imm8 (.mem (.plain .bp)) 0,
    .andRmReg .toRm .word (.mem (.plain .bp)) .ax_al, .andRmImm (.mem (.plain .bp)) (.byte 0),
    .orRmReg .toRm .word (.mem (.plain .bp)) .ax_al, .orRmImm (.mem (.plain .bp)) (.byte 0),
    .xorRmReg .toRm .word (.mem (.plain .bp)) .ax_al, .xorRmImm (.mem (.plain .bp)) (.byte 0),
    .incRm .word (.mem (.plain .bp)), .decRm .word (.mem (.plain .bp)), .testRmImm (.mem (.plain .bp)) (.byte 0),
    .notRm .word (.mem (.plain .bp)), .negRm .word (.mem (.plain .bp)), .mulRm .word (.mem (.plain .bp)),
    .imulRm .word (.mem (.plain .bp)), .divRm .word (.mem (.plain .bp)), .idivRm .word (.mem (.plain .bp)),
    .imulRegRmImm16 .ax_al (.mem (.plain .bp)) 0, .imulRegRmImm8 .ax_al (.mem (.plain .bp)) 0,
    .testRmReg .word (.mem (.plain .bp)) .ax_al, .rolRm1 .word (.mem (.plain .bp)),
    .rolRmCl .word (.mem (.plain .bp)), .rolRmImm .word (.mem (.plain .bp)) 0, .rorRm1 .word (.mem (.plain .bp)),
    .rorRmCl .word (.mem (.plain .bp)), .rorRmImm .word (.mem (.plain .bp)) 0, .rclRm1 .word (.mem (.plain .bp)),
    .rclRmCl .word (.mem (.plain .bp)), .rclRmImm .word (.mem (.plain .bp)) 0, .rcrRm1 .word (.mem (.plain .bp)),
    .rcrRmCl .word (.mem (.plain .bp)), .rcrRmImm .word (.mem (.plain .bp)) 0, .shlRm1 .word (.mem (.plain .bp)),
    .shlRmCl .word (.mem (.plain .bp)), .shlRmImm .word (.mem (.plain .bp)) 0, .shrRm1 .word (.mem (.plain .bp)),
    .shrRmCl .word (.mem (.plain .bp)), .shrRmImm .word (.mem (.plain .bp)) 0, .sarRm1 .word (.mem (.plain .bp)),
    .sarRmCl .word (.mem (.plain .bp)), .sarRmImm .word (.mem (.plain .bp)) 0, .callNearRm (.mem (.plain .bp)),
    .callFarMem (.plain .bp), .jmpNearRm (.mem (.plain .bp)), .jmpFarMem (.plain .bp), .bound .ax_al (.plain .bp),
    .esc 0 0 (.mem (.plain .bp)) ]

theorem test_wf_operands : (withPlainBp.all fun i => !i.wf) = true := by decide

/-! ### Words written out from the encodings (R173 to R199) -/

/-- MOV -/
theorem test_decode_mov :
    decodes [
      ([0x88, 0x48, 0x10], .movRmReg .byte (.mem (.disp8 .bxSi 0x10)) .cx_cl),
      ([0x89, 0xD8], .movRmReg .word (.reg .ax_al) .bx_bl),
      ([0x8B, 0x86, 0x34, 0x12], .movRegRm .word .ax_al (.mem (.disp16 .bp 0x1234))),
      ([0xC6, 0x06, 0x34, 0x12, 0x78], .movRmImm (.mem (.direct 0x1234)) (.byte 0x78)),
      ([0xC7, 0xC3, 0x34, 0x12], .movRmImm (.reg .bx_bl) (.word 0x1234)),
      ([0xB4, 0x12], .movReg8Imm .sp_ah 0x12),
      ([0xBF, 0x34, 0x12], .movReg16Imm .di_bh 0x1234),
      ([0xA1, 0xFF, 0x10], .movAccMem .word 0x10FF),
      ([0xA2, 0xFF, 0x10], .movMemAcc .byte 0x10FF),
      ([0x8E, 0xD8], .movSregRm .ds (.reg .ax_al)),
      ([0x8C, 0x0F], .movRmSreg (.mem (.plain .bx)) .cs)] = true := by
  decide +kernel

/-- PUSH, POP, PUSHA, POPA, PUSHF, POPF -/
theorem test_decode_stack :
    decodes [
      ([0xFF, 0x36, 0x00, 0x10], .pushRm (.mem (.direct 0x1000))),
      ([0xFF, 0xF4], .pushRm (.reg .sp_ah)),
      ([0x56], .pushReg .si_dh),
      ([0x06], .pushEs),
      ([0x0E], .pushCs),
      ([0x16], .pushSs),
      ([0x1E], .pushDs),
      ([0x68, 0x34, 0x12], .pushImm16 0x1234),
      ([0x6A, 0xFF], .pushImm8 0xFF),
      ([0x60], .pusha),
      ([0x8F, 0x06, 0x00, 0x10], .popRm (.mem (.direct 0x1000))),
      ([0x5D], .popReg .bp_ch),
      ([0x07], .popEs),
      ([0x17], .popSs),
      ([0x1F], .popDs),
      ([0x61], .popa),
      ([0x9C], .pushf),
      ([0x9D], .popf)] = true := by
  decide +kernel

/-- The rest of the data transfers -/
theorem test_decode_transfer :
    decodes [
      ([0x86, 0x07], .xchgRmReg .byte (.mem (.plain .bx)) .ax_al),
      ([0x90], .nop),
      ([0x97], .xchgAxReg .di_bh),
      ([0xE4, 0x42], .inAccPort .byte 0x42),
      ([0xED], .inAccDx .word),
      ([0xE7, 0x42], .outPortAcc .word 0x42),
      ([0xEE], .outDxAcc .byte),
      ([0xD7], .xlat),
      ([0x8D, 0x40, 0x05], .lea .ax_al (.disp8 .bxSi 5)),
      ([0xC5, 0x37], .lds .si_dh (.plain .bx)),
      ([0xC4, 0x3E, 0x00, 0x02], .les .di_bh (.direct 0x200)),
      ([0x9F], .lahf),
      ([0x9E], .sahf)] = true := by
  decide +kernel

/-- ADD, ADC, SUB, SBB, CMP: the opcode byte of R180 and the /r of R182 -/
theorem test_decode_add_subtract :
    decodes [
      ([0x01, 0x03], .addRmReg .toRm .word (.mem (.plain .bpDi)) .ax_al),
      ([0x02, 0xC3], .addRmReg .toReg .byte (.reg .bx_bl) .ax_al),
      ([0x80, 0x07, 0x10], .addRmImm (.mem (.plain .bx)) (.byte 0x10)),
      ([0x81, 0xC3, 0xFF, 0x00], .addRmImm (.reg .bx_bl) (.word 0x00FF)),
      ([0x82, 0xC1, 0x7F], .addRm8Imm8 (.reg .cx_cl) 0x7F),
      ([0x83, 0xC2, 0xFF], .addRm16Imm8 (.reg .dx_dl) 0xFF),
      ([0x04, 0x01], .addAccImm (.byte 1)),
      ([0x05, 0x34, 0x12], .addAccImm (.word 0x1234)),
      ([0x11, 0x03], .adcRmReg .toRm .word (.mem (.plain .bpDi)) .ax_al),
      ([0x12, 0xC3], .adcRmReg .toReg .byte (.reg .bx_bl) .ax_al),
      ([0x80, 0x17, 0x10], .adcRmImm (.mem (.plain .bx)) (.byte 0x10)),
      ([0x81, 0xD3, 0xFF, 0x00], .adcRmImm (.reg .bx_bl) (.word 0x00FF)),
      ([0x82, 0xD1, 0x7F], .adcRm8Imm8 (.reg .cx_cl) 0x7F),
      ([0x83, 0xD2, 0xFF], .adcRm16Imm8 (.reg .dx_dl) 0xFF),
      ([0x14, 0x01], .adcAccImm (.byte 1)),
      ([0x15, 0x34, 0x12], .adcAccImm (.word 0x1234)),
      ([0x29, 0x03], .subRmReg .toRm .word (.mem (.plain .bpDi)) .ax_al),
      ([0x2A, 0xC3], .subRmReg .toReg .byte (.reg .bx_bl) .ax_al),
      ([0x80, 0x2F, 0x10], .subRmImm (.mem (.plain .bx)) (.byte 0x10)),
      ([0x81, 0xEB, 0xFF, 0x00], .subRmImm (.reg .bx_bl) (.word 0x00FF)),
      ([0x82, 0xE9, 0x7F], .subRm8Imm8 (.reg .cx_cl) 0x7F),
      ([0x83, 0xEA, 0xFF], .subRm16Imm8 (.reg .dx_dl) 0xFF),
      ([0x2C, 0x01], .subAccImm (.byte 1)),
      ([0x2D, 0x34, 0x12], .subAccImm (.word 0x1234)),
      ([0x19, 0x03], .sbbRmReg .toRm .word (.mem (.plain .bpDi)) .ax_al),
      ([0x1A, 0xC3], .sbbRmReg .toReg .byte (.reg .bx_bl) .ax_al),
      ([0x80, 0x1F, 0x10], .sbbRmImm (.mem (.plain .bx)) (.byte 0x10)),
      ([0x81, 0xDB, 0xFF, 0x00], .sbbRmImm (.reg .bx_bl) (.word 0x00FF)),
      ([0x82, 0xD9, 0x7F], .sbbRm8Imm8 (.reg .cx_cl) 0x7F),
      ([0x83, 0xDA, 0xFF], .sbbRm16Imm8 (.reg .dx_dl) 0xFF),
      ([0x1C, 0x01], .sbbAccImm (.byte 1)),
      ([0x1D, 0x34, 0x12], .sbbAccImm (.word 0x1234)),
      ([0x39, 0x03], .cmpRmReg .toRm .word (.mem (.plain .bpDi)) .ax_al),
      ([0x3A, 0xC3], .cmpRmReg .toReg .byte (.reg .bx_bl) .ax_al),
      ([0x80, 0x3F, 0x10], .cmpRmImm (.mem (.plain .bx)) (.byte 0x10)),
      ([0x81, 0xFB, 0xFF, 0x00], .cmpRmImm (.reg .bx_bl) (.word 0x00FF)),
      ([0x82, 0xF9, 0x7F], .cmpRm8Imm8 (.reg .cx_cl) 0x7F),
      ([0x83, 0xFA, 0xFF], .cmpRm16Imm8 (.reg .dx_dl) 0xFF),
      ([0x3C, 0x01], .cmpAccImm (.byte 1)),
      ([0x3D, 0x34, 0x12], .cmpAccImm (.word 0x1234))] = true := by
  decide +kernel

/-- The other arithmetic instructions -/
theorem test_decode_arithmetic :
    decodes [
      ([0xFE, 0x07], .incRm .byte (.mem (.plain .bx))),
      ([0x41], .incReg .cx_cl),
      ([0xFF, 0x4F, 0x02], .decRm .word (.mem (.disp8 .bx 2))),
      ([0x4B], .decReg .bx_bl),
      ([0xF6, 0xD8], .negRm .byte (.reg .ax_al)),
      ([0xF7, 0xE3], .mulRm .word (.reg .bx_bl)),
      ([0xF6, 0xEB], .imulRm .byte (.reg .bx_bl)),
      ([0xF7, 0x36, 0x00, 0x10], .divRm .word (.mem (.direct 0x1000))),
      ([0xF6, 0xFB], .idivRm .byte (.reg .bx_bl)),
      ([0x69, 0xD9, 0x00, 0x40], .imulRegRmImm16 .bx_bl (.reg .cx_cl) 0x4000),
      ([0x6B, 0x46, 0x04, 0xF6], .imulRegRmImm8 .ax_al (.mem (.disp8 .bp 4)) 0xF6),
      ([0x37], .aaa),
      ([0x3F], .aas),
      ([0x27], .daa),
      ([0x2F], .das),
      ([0xD4, 0x0A], .aam),
      ([0xD5, 0x0A], .aad),
      ([0x98], .cbw),
      ([0x99], .cwd)] = true := by
  decide +kernel

/-- AND, OR, XOR, TEST, NOT -/
theorem test_decode_logic :
    decodes [
      ([0x20, 0x38], .andRmReg .toRm .byte (.mem (.plain .bxSi)) .di_bh),
      ([0x23, 0xD8], .andRmReg .toReg .word (.reg .ax_al) .bx_bl),
      ([0x81, 0x26, 0x00, 0x10, 0xFF, 0x0F], .andRmImm (.mem (.direct 0x1000)) (.word 0x0FFF)),
      ([0x80, 0xE3, 0x81], .andRmImm (.reg .bx_bl) (.byte 0x81)),
      ([0x24, 0x0F], .andAccImm (.byte 0x0F)),
      ([0x08, 0x38], .orRmReg .toRm .byte (.mem (.plain .bxSi)) .di_bh),
      ([0x0B, 0xD8], .orRmReg .toReg .word (.reg .ax_al) .bx_bl),
      ([0x81, 0x0E, 0x00, 0x10, 0xFF, 0x0F], .orRmImm (.mem (.direct 0x1000)) (.word 0x0FFF)),
      ([0x80, 0xCB, 0x81], .orRmImm (.reg .bx_bl) (.byte 0x81)),
      ([0x0C, 0x0F], .orAccImm (.byte 0x0F)),
      ([0x30, 0x38], .xorRmReg .toRm .byte (.mem (.plain .bxSi)) .di_bh),
      ([0x33, 0xD8], .xorRmReg .toReg .word (.reg .ax_al) .bx_bl),
      ([0x81, 0x36, 0x00, 0x10, 0xFF, 0x0F], .xorRmImm (.mem (.direct 0x1000)) (.word 0x0FFF)),
      ([0x80, 0xF3, 0x81], .xorRmImm (.reg .bx_bl) (.byte 0x81)),
      ([0x34, 0x0F], .xorAccImm (.byte 0x0F)),
      ([0x85, 0xC1], .testRmReg .word (.reg .cx_cl) .ax_al),
      ([0xF6, 0x07, 0x80], .testRmImm (.mem (.plain .bx)) (.byte 0x80)),
      ([0xF7, 0xC0, 0x34, 0x12], .testRmImm (.reg .ax_al) (.word 0x1234)),
      ([0xA9, 0x34, 0x12], .testAccImm (.word 0x1234)),
      ([0xF7, 0xD0], .notRm .word (.reg .ax_al))] = true := by
  decide +kernel

/-- The shifts and rotates -/
theorem test_decode_shift :
    decodes [
      ([0xD1, 0x07], .rolRm1 .word (.mem (.plain .bx))),
      ([0xD2, 0xC0], .rolRmCl .byte (.reg .ax_al)),
      ([0xC1, 0xC3, 0x04], .rolRmImm .word (.reg .bx_bl) 4),
      ([0xD1, 0x0F], .rorRm1 .word (.mem (.plain .bx))),
      ([0xD2, 0xC8], .rorRmCl .byte (.reg .ax_al)),
      ([0xC1, 0xCB, 0x04], .rorRmImm .word (.reg .bx_bl) 4),
      ([0xD1, 0x17], .rclRm1 .word (.mem (.plain .bx))),
      ([0xD2, 0xD0], .rclRmCl .byte (.reg .ax_al)),
      ([0xC1, 0xD3, 0x04], .rclRmImm .word (.reg .bx_bl) 4),
      ([0xD1, 0x1F], .rcrRm1 .word (.mem (.plain .bx))),
      ([0xD2, 0xD8], .rcrRmCl .byte (.reg .ax_al)),
      ([0xC1, 0xDB, 0x04], .rcrRmImm .word (.reg .bx_bl) 4),
      ([0xD1, 0x27], .shlRm1 .word (.mem (.plain .bx))),
      ([0xD2, 0xE0], .shlRmCl .byte (.reg .ax_al)),
      ([0xC1, 0xE3, 0x04], .shlRmImm .word (.reg .bx_bl) 4),
      ([0xD1, 0x2F], .shrRm1 .word (.mem (.plain .bx))),
      ([0xD2, 0xE8], .shrRmCl .byte (.reg .ax_al)),
      ([0xC1, 0xEB, 0x04], .shrRmImm .word (.reg .bx_bl) 4),
      ([0xD1, 0x3F], .sarRm1 .word (.mem (.plain .bx))),
      ([0xD2, 0xF8], .sarRmCl .byte (.reg .ax_al)),
      ([0xC1, 0xFB, 0x04], .sarRmImm .word (.reg .bx_bl) 4)] = true := by
  decide +kernel

/-- The string instructions and prefixes -/
theorem test_decode_string :
    decodes [
      ([0xA4], .movs .byte),
      ([0xA7], .cmps .word),
      ([0xAE], .scas .byte),
      ([0xAD], .lods .word),
      ([0xAA], .stos .byte),
      ([0x6D], .ins .word),
      ([0x6E], .outs .byte),
      ([0xF2], .rep false),
      ([0xF3], .rep true),
      ([0xF0], .lock),
      ([0x26], .segEs),
      ([0x2E], .segCs),
      ([0x36], .segSs),
      ([0x3E], .segDs)] = true := by
  decide +kernel

/-- The control transfers -/
theorem test_decode_control :
    decodes [
      ([0xE8, 0xFD, 0xFF], .callNear 0xFFFD),
      ([0xFF, 0xD3], .callNearRm (.reg .bx_bl)),
      ([0x9A, 0x78, 0x56, 0x34, 0x12], .callFar 0x5678 0x1234),
      ([0xFF, 0x1F], .callFarMem (.plain .bx)),
      ([0xEB, 0xFE], .jmpShort 0xFE),
      ([0xE9, 0x00, 0xFF], .jmpNear 0xFF00),
      ([0xFF, 0x27], .jmpNearRm (.mem (.plain .bx))),
      ([0xEA, 0x78, 0x56, 0x34, 0x12], .jmpFar 0x5678 0x1234),
      ([0xFF, 0x2F], .jmpFarMem (.plain .bx)),
      ([0xC3], .retNear),
      ([0xC2, 0x04, 0x00], .retNearImm 4),
      ([0xCB], .retFar),
      ([0xCA, 0x04, 0x00], .retFarImm 4),
      ([0x70, 0x10], .jo 0x10),
      ([0x71, 0x10], .jno 0x10),
      ([0x72, 0x10], .jb 0x10),
      ([0x73, 0x10], .jnb 0x10),
      ([0x74, 0x10], .je 0x10),
      ([0x75, 0x10], .jne 0x10),
      ([0x76, 0x10], .jbe 0x10),
      ([0x77, 0x10], .jnbe 0x10),
      ([0x78, 0x10], .js 0x10),
      ([0x79, 0x10], .jns 0x10),
      ([0x7A, 0x10], .jp 0x10),
      ([0x7B, 0x10], .jnp 0x10),
      ([0x7C, 0x10], .jl 0x10),
      ([0x7D, 0x10], .jnl 0x10),
      ([0x7E, 0x10], .jle 0x10),
      ([0x7F, 0x10], .jnle 0x10),
      ([0xE2, 0xFE], .loop 0xFE),
      ([0xE1, 0x10], .loopz 0x10),
      ([0xE0, 0x10], .loopnz 0x10),
      ([0xE3, 0x10], .jcxz 0x10),
      ([0xCD, 0x21], .intType 0x21),
      ([0xCC], .int3),
      ([0xCE], .into),
      ([0xCF], .iret)] = true := by
  decide +kernel

/-- High-level and processor control instructions -/
theorem test_decode_processor :
    decodes [
      ([0xC8, 0x04, 0x00, 0x02], .enter 4 2),
      ([0xC9], .leave),
      ([0x62, 0x07], .bound .ax_al (.plain .bx)),
      ([0xF8], .clc),
      ([0xF9], .stc),
      ([0xF5], .cmc),
      ([0xFC], .cld),
      ([0xFD], .std),
      ([0xFA], .cli),
      ([0xFB], .sti),
      ([0xF4], .hlt),
      ([0x9B], .wait),
      ([0xDA, 0x1F], .esc 2 3 (.mem (.plain .bx))),
      ([0xDF, 0xC1], .esc 7 0 (.reg .cx_cl))] = true := by
  decide +kernel

/-- Every r/m form and every register (R175, R176) -/
theorem test_decode_operands :
    decodes [
      ([0x8A, 0x00], .movRegRm .byte .ax_al (.mem (.plain .bxSi))),
      ([0x8A, 0x01], .movRegRm .byte .ax_al (.mem (.plain .bxDi))),
      ([0x8A, 0x02], .movRegRm .byte .ax_al (.mem (.plain .bpSi))),
      ([0x8A, 0x03], .movRegRm .byte .ax_al (.mem (.plain .bpDi))),
      ([0x8A, 0x04], .movRegRm .byte .ax_al (.mem (.plain .si))),
      ([0x8A, 0x05], .movRegRm .byte .ax_al (.mem (.plain .di))),
      ([0x8A, 0x07], .movRegRm .byte .ax_al (.mem (.plain .bx))),
      ([0x8A, 0x06, 0x34, 0x12], .movRegRm .byte .ax_al (.mem (.direct 0x1234))),
      ([0x8A, 0x40, 0x80], .movRegRm .byte .ax_al (.mem (.disp8 .bxSi 0x80))),
      ([0x8A, 0x41, 0x80], .movRegRm .byte .ax_al (.mem (.disp8 .bxDi 0x80))),
      ([0x8A, 0x42, 0x80], .movRegRm .byte .ax_al (.mem (.disp8 .bpSi 0x80))),
      ([0x8A, 0x43, 0x80], .movRegRm .byte .ax_al (.mem (.disp8 .bpDi 0x80))),
      ([0x8A, 0x44, 0x80], .movRegRm .byte .ax_al (.mem (.disp8 .si 0x80))),
      ([0x8A, 0x45, 0x80], .movRegRm .byte .ax_al (.mem (.disp8 .di 0x80))),
      ([0x8A, 0x46, 0x80], .movRegRm .byte .ax_al (.mem (.disp8 .bp 0x80))),
      ([0x8A, 0x47, 0x80], .movRegRm .byte .ax_al (.mem (.disp8 .bx 0x80))),
      ([0x8A, 0x80, 0x34, 0x12], .movRegRm .byte .ax_al (.mem (.disp16 .bxSi 0x1234))),
      ([0x8A, 0x81, 0x34, 0x12], .movRegRm .byte .ax_al (.mem (.disp16 .bxDi 0x1234))),
      ([0x8A, 0x82, 0x34, 0x12], .movRegRm .byte .ax_al (.mem (.disp16 .bpSi 0x1234))),
      ([0x8A, 0x83, 0x34, 0x12], .movRegRm .byte .ax_al (.mem (.disp16 .bpDi 0x1234))),
      ([0x8A, 0x84, 0x34, 0x12], .movRegRm .byte .ax_al (.mem (.disp16 .si 0x1234))),
      ([0x8A, 0x85, 0x34, 0x12], .movRegRm .byte .ax_al (.mem (.disp16 .di 0x1234))),
      ([0x8A, 0x86, 0x34, 0x12], .movRegRm .byte .ax_al (.mem (.disp16 .bp 0x1234))),
      ([0x8A, 0x87, 0x34, 0x12], .movRegRm .byte .ax_al (.mem (.disp16 .bx 0x1234))),
      ([0x8B, 0xC7], .movRegRm .word .ax_al (.reg .di_bh)),
      ([0x8B, 0xCE], .movRegRm .word .cx_cl (.reg .si_dh)),
      ([0x8B, 0xD5], .movRegRm .word .dx_dl (.reg .bp_ch)),
      ([0x8B, 0xDC], .movRegRm .word .bx_bl (.reg .sp_ah)),
      ([0x8B, 0xE3], .movRegRm .word .sp_ah (.reg .bx_bl)),
      ([0x8B, 0xEA], .movRegRm .word .bp_ch (.reg .dx_dl)),
      ([0x8B, 0xF1], .movRegRm .word .si_dh (.reg .cx_cl)),
      ([0x8B, 0xF8], .movRegRm .word .di_bh (.reg .ax_al))] = true := by
  decide +kernel

/-- The unlisted encodings of R190, with their classes (UD1 to UD14). -/
theorem test_decode_unlisted :
    ([
      ([0x0F], Unlisted.ua),
      ([0x63], Unlisted.ub),
      ([0x67], Unlisted.ub),
      ([0xD6], Unlisted.uc),
      ([0xF1], Unlisted.ud),
      ([0x83, 0xC8], Unlisted.ue),
      ([0x83, 0xE0], Unlisted.ue),
      ([0x83, 0xF0], Unlisted.ue),
      ([0x8F, 0xC8], Unlisted.uf),
      ([0xD0, 0xF0], Unlisted.uh),
      ([0xC0, 0x30], Unlisted.uh),
      ([0xF6, 0xC8], Unlisted.ui),
      ([0xF7, 0x08], Unlisted.ui),
      ([0x8D, 0xC0], Unlisted.um),
      ([0x62, 0xC3], Unlisted.um),
      ([0xC5, 0xC0], Unlisted.ul),
      ([0xFF, 0xD8], Unlisted.ul),
      ([0xFF, 0xE8], Unlisted.ul),
      ([0xFE, 0x10], Unlisted.uj),
      ([0xFF, 0xF8], Unlisted.uk),
      ([0x8C, 0xE0], Unlisted.un),
      ([0x8E, 0xE0], Unlisted.un),
      ([0xC6, 0xC8], Unlisted.ug),
      ([0xC7, 0x08], Unlisted.ug),
      ([0xD4, 0x0B], Unlisted.uo),
      ([0xD5, 0x00], Unlisted.uo)] : List (List Byte × Unlisted)).all
      (fun (b, c) => decide (decode (b ++ [0x10, 0x20, 0x30, 0x40]) = .unlisted c b.length)) = true := by
  decide +kernel

theorem test_decode_mov_cs : decode [0x8E, 0xC8] = .movToCs := by decide +kernel

theorem test_decode_truncated : decode [0xB8, 0x34] = .truncated := by decide +kernel

/-- The opcode table gives a one-byte row 8 bits and a two-byte row 16, the first byte the upper (R199, log 29). -/
theorem test_decode_table_word :
    decodeTableWord 8 0x90 = some .nop ∧ decodeTableWord 16 0x89D8 = some (.movRmReg .word (.reg .ax_al) .bx_bl) := by
  decide +kernel

theorem test_fetch_word_runs :
    sees (step (State.reset.withFetchWord 16 0xB034)) (fun t => t.regs.ax == 0x34 && t.ip == 2) = true := by
  decide +kernel

/-! ### One step of each instruction -/

theorem test_DT2_movRmReg :
    sees (step (start |> setR .bx_bl 0x1000 |> setR .si_dh 0x20 |> setR .cx_cl 0xAB
        |> code [0x88, 0x48, 0x10]))
      (fun t => t.loadByte 0x41030 == 0xAB && t.ip == 0x103) = true := by
  decide +kernel

theorem test_DT3_movRegRm :
    sees (step (start |> setR .bp_ch 0x80 |> word 0x20082 0xABCD |> code [0x8B, 0x46, 0x02]))
      (fun t => t.regs.ax == 0xABCD && t.ip == 0x103) = true := by
  decide +kernel

theorem test_DT8_movRegRm :
    sees (step (start |> byte 0x4FFFF 0x66 |> code [0x8A, 0x47, 0xFF]))
      (fun t => t.regs.ax == 0x66) = true := by
  decide +kernel

theorem test_DT5_movRmImm :
    sees (step (start |> code [0xC7, 0x06, 0x34, 0x12, 0x78, 0x56]))
      (fun t => t.loadByte 0x41234 == 0x78 && t.loadByte 0x41235 == 0x56 && t.ip == 0x106) = true := by
  decide +kernel

theorem test_rule_movReg8Imm :
    sees (step (start |> setR .ax_al 0x34 |> code [0xB4, 0x12]))
      (fun t => t.regs.ax == 0x1234 && t.ip == 0x102) = true := by
  decide +kernel

theorem test_DT1_movReg16Imm :
    sees (step (start |> code [0xB8, 0x34, 0x12]))
      (fun t => t.regs.ax == 0x1234 && t.ip == 0x103) = true := by
  decide +kernel

theorem test_DT6a_movAccMem :
    sees (step (start |> byte 0x4FFFF 0x5A |> code [0xA0, 0xFF, 0xFF]))
      (fun t => t.regs.ax == 0x5A && t.ip == 0x103) = true := by
  decide +kernel

theorem test_DT6b_movAccMem :
    stops (step (start |> code [0xA1, 0xFF, 0xFF])) .wordAtFFFF = true := by
  decide +kernel

theorem test_rule_movMemAcc :
    sees (step (start |> setR .ax_al 0xBEEF |> code [0xA3, 0x00, 0x10]))
      (fun t => t.loadWord 0x41000 == 0xBEEF && t.ip == 0x103) = true := by
  decide +kernel

theorem test_DT20_movSregRm :
    sees (step (start |> setR .ax_al 0x5000 |> code [0x8E, 0xD8]))
      (fun t => t.segs.ds == 0x5000) = true := by
  decide +kernel

theorem test_DT20c_movSregRm :
    stops (step (start |> code [0x8E, 0xC8])) .movToCs = true := by
  decide +kernel

theorem test_DT20b_movRmSreg :
    sees (step (start |> code [0x8C, 0xC8]))
      (fun t => t.regs.ax == 0x1000) = true := by
  decide +kernel

theorem test_DT23_pushRm :
    sees (step (start |> word 0x41000 0xCAFE |> code [0xFF, 0x36, 0x00, 0x10]))
      (fun t => t.loadWord 0x200FE == 0xCAFE && t.regs.sp == 0xFE) = true := by
  decide +kernel

theorem test_DT9_pushReg :
    sees (step (start |> code [0x54]))
      (fun t => t.regs.sp == 0xFE && t.loadWord 0x200FE == 0xFE) = true := by
  decide +kernel

theorem test_rule_pushEs :
    sees (step (start |> code [0x06]))
      (fun t => t.loadWord 0x200FE == 0x3000 && t.regs.sp == 0xFE) = true := by
  decide +kernel

theorem test_DT25_pushCs :
    sees (step (start |> code [0x0E]))
      (fun t => t.loadWord 0x200FE == 0x1000 && t.regs.sp == 0xFE) = true := by
  decide +kernel

theorem test_rule_pushSs :
    sees (step (start |> code [0x16]))
      (fun t => t.loadWord 0x200FE == 0x2000 && t.regs.sp == 0xFE) = true := by
  decide +kernel

theorem test_rule_pushDs :
    sees (step (start |> code [0x1E]))
      (fun t => t.loadWord 0x200FE == 0x4000 && t.regs.sp == 0xFE) = true := by
  decide +kernel

theorem test_DT11b_pushImm16 :
    sees (step (start |> code [0x68, 0x34, 0x12]))
      (fun t => t.regs.sp == 0xFE && t.loadWord 0x200FE == 0x1234 && t.ip == 0x103) = true := by
  decide +kernel

theorem test_DT11_pushImm8 :
    sees (step (start |> code [0x6A, 0xFF]))
      (fun t => t.regs.sp == 0xFE && t.loadWord 0x200FE == 0xFFFF && t.ip == 0x102) = true := by
  decide +kernel

theorem test_DT12_pusha :
    sees (step (start |> setR .ax_al 0x1111 |> setR .cx_cl 0x2222 |> setR .dx_dl 0x3333
        |> setR .bx_bl 0x4444 |> setR .bp_ch 0x5555 |> setR .si_dh 0x6666 |> setR .di_bh 0x7777
        |> code [0x60]))
      (fun t => t.loadWord 0x200FE == 0x1111 && t.loadWord 0x200FC == 0x2222 && t.loadWord 0x200FA == 0x3333
          && t.loadWord 0x200F8 == 0x4444 && t.loadWord 0x200F6 == 0x100 && t.loadWord 0x200F4 == 0x5555
          && t.loadWord 0x200F2 == 0x6666 && t.loadWord 0x200F0 == 0x7777 && t.regs.sp == 0xF0) = true := by
  decide +kernel

theorem test_DT22_popRm :
    sees (step (start |> word 0x20100 0xBEEF |> code [0x8F, 0x06, 0x00, 0x10]))
      (fun t => t.loadWord 0x41000 == 0xBEEF && t.regs.sp == 0x102 && t.ip == 0x104) = true := by
  decide +kernel

theorem test_DT10_popReg :
    sees (step (start |> word 0x20100 0x1234 |> code [0x5C]))
      (fun t => t.regs.sp == 0x1234) = true := by
  decide +kernel

theorem test_rule_popEs :
    sees (step (start |> word 0x20100 0x6000 |> code [0x07]))
      (fun t => t.segs.es == 0x6000 && t.regs.sp == 0x102) = true := by
  decide +kernel

theorem test_rule_popSs :
    sees (step (start |> word 0x20100 0x6000 |> code [0x17]))
      (fun t => t.segs.ss == 0x6000 && t.regs.sp == 0x102) = true := by
  decide +kernel

theorem test_DT24_popDs :
    sees (step (start |> word 0x20100 0x6000 |> code [0x1F]))
      (fun t => t.segs.ds == 0x6000 && t.regs.sp == 0x102) = true := by
  decide +kernel

theorem test_rule_popa :
    sees (step (start |> word 0x20100 7 |> word 0x20102 6 |> word 0x20104 5 |> word 0x20106 0xBAD
        |> word 0x20108 3 |> word 0x2010A 2 |> word 0x2010C 1 |> word 0x2010E 9 |> code [0x61]))
      (fun t => t.regs.di == 7 && t.regs.si == 6 && t.regs.bp == 5 && t.regs.bx == 3 && t.regs.dx == 2
          && t.regs.cx == 1 && t.regs.ax == 9 && t.regs.sp == 0x110) = true := by
  decide +kernel

theorem test_DT13b_xchgRmReg :
    sees (step (start |> setR .bx_bl 0x20 |> setR .ax_al 0xAA |> byte 0x40020 0x55 |> code [0x86, 0x07]))
      (fun t => t.regs.ax == 0x55 && t.loadByte 0x40020 == 0xAA) = true := by
  decide +kernel

theorem test_PC9_nop :
    sees (step (start |> setR .ax_al 0x1234 |> code [0x90]))
      (fun t => t.ip == 0x101 && t.regs.ax == 0x1234) = true := by
  decide +kernel

theorem test_DT13_xchgAxReg :
    sees (step (start |> setR .ax_al 0x1111 |> setR .bx_bl 0x2222 |> code [0x93]))
      (fun t => t.regs.ax == 0x2222 && t.regs.bx == 0x1111) = true := by
  decide +kernel

theorem test_DT19_inAccPort :
    sees (step (start |> port 0x42 0x5A |> code [0xE4, 0x42]))
      (fun t => t.regs.ax == 0x5A) = true := by
  decide +kernel

theorem test_rule_inAccDx :
    sees (step (start |> setR .dx_dl 0x300 |> port 0x300 0x34 |> port 0x301 0x12 |> code [0xED]))
      (fun t => t.regs.ax == 0x1234) = true := by
  decide +kernel

theorem test_rule_outPortAcc :
    sees (step (start |> setR .ax_al 0x5A |> code [0xE6, 0x42]))
      (fun t => t.portLog == [{ port := 0x42, wide := false, value := 0x5A }]) = true := by
  decide +kernel

theorem test_DT19b_outDxAcc :
    sees (step (start |> setR .dx_dl 0x1234 |> setR .ax_al 0xBEEF |> code [0xEF]))
      (fun t => t.portLog == [{ port := 0x1234, wide := true, value := 0xBEEF }]) = true := by
  decide +kernel

theorem test_DT18_xlat :
    sees (step (start |> setR .bx_bl 0x1000 |> setR .ax_al 0xFF |> byte 0x410FF 0x99 |> code [0xD7]))
      (fun t => t.regs.ax == 0x99) = true := by
  decide +kernel

theorem test_DT18b_xlat :
    sees (step (start |> setR .bx_bl 0xFFFF |> setR .ax_al 2 |> byte 0x40001 0x88 |> code [0xD7]))
      (fun t => t.regs.ax == 0x88) = true := by
  decide +kernel

theorem test_DT14_lea :
    sees (step (start |> setR .bx_bl 0xFFFF |> setR .si_dh 1 |> code [0x8D, 0x40, 0x05]))
      (fun t => t.regs.ax == 5) = true := by
  decide +kernel

theorem test_DT15_lds :
    sees (step (start |> setR .bx_bl 0x20 |> byte 0x40020 0x78 |> byte 0x40021 0x56 |> byte 0x40022 0
        |> byte 0x40023 0x50 |> code [0xC5, 0x37]))
      (fun t => t.regs.si == 0x5678 && t.segs.ds == 0x5000) = true := by
  decide +kernel

theorem test_DT15b_les :
    sees (step (start |> byte 0x40200 0x78 |> byte 0x40201 0x56 |> byte 0x40202 0 |> byte 0x40203 0x50
        |> code [0xC4, 0x3E, 0x00, 0x02]))
      (fun t => t.regs.di == 0x5678 && t.segs.es == 0x5000 && t.ip == 0x104) = true := by
  decide +kernel

theorem test_DT16_lahf :
    sees (step (start |> setF 0xFED7 |> code [0x9F]))
      (fun t => t.regs.ax == 0xD700) = true := by
  decide +kernel

theorem test_DT16b_sahf :
    sees (step (start |> setR .ax_al 0xFF00 |> code [0x9E]))
      (fun t => t.flags.image == 0xF0D7) = true := by
  decide +kernel

theorem test_DT16c_sahf :
    sees (step (start |> setR .ax_al 0 |> setF 0xFED7 |> code [0x9E]))
      (fun t => t.flags.image == 0xFE02) = true := by
  decide +kernel

theorem test_DT17c_pushf :
    sees (step (start |> setF 0xFA43 |> code [0x9C]))
      (fun t => t.loadWord 0x200FE == 0xFA43 && t.regs.sp == 0xFE) = true := by
  decide +kernel

theorem test_DT17_popf :
    sees (step (start |> word 0x20100 0xFFFF |> code [0x9D]))
      (fun t => t.flags.image == 0xFFD7 && t.regs.sp == 0x102) = true := by
  decide +kernel

theorem test_DT17b_popf :
    sees (step (start |> word 0x20100 0 |> setF 0xFED7 |> code [0x9D]))
      (fun t => t.flags.image == 0xF002) = true := by
  decide +kernel

theorem test_AR1_addRmReg :
    sees (step (start |> setR .ax_al 0x7F |> setR .bx_bl 1 |> code [0x00, 0xD8]))
      (fun t => t.regs.ax == 0x80 && flagsAre t.flags false false true false true true) = true := by
  decide +kernel

theorem test_AR2_addRmReg :
    sees (step (start |> setR .ax_al 0xFFFF |> setR .bx_bl 1 |> code [0x01, 0xD8]))
      (fun t => t.regs.ax == 0 && flagsAre t.flags true true true true false false) = true := by
  decide +kernel

theorem test_AR7b_addRmImm :
    sees (step (start |> setR .bx_bl 1 |> code [0x81, 0xC3, 0xFF, 0x00]))
      (fun t => t.regs.bx == 0x100 && flagsAre t.flags false true true false false false) = true := by
  decide +kernel

theorem test_AR7c_addRmImm :
    sees (step (start |> setR .bx_bl 0x20 |> byte 0x40020 0xF8 |> code [0x80, 0x07, 0x10]))
      (fun t => t.loadByte 0x40020 == 8 && flagsAre t.flags true false false false false false) = true := by
  decide +kernel

theorem test_rule_addRm8Imm8 :
    sees (step (start |> setR .ax_al 1 |> code [0x82, 0xC0, 0xFF]))
      (fun t => t.regs.ax == 0 && flagsAre t.flags true true true true false false) = true := by
  decide +kernel

theorem test_AR7_addRm16Imm8 :
    sees (step (start |> setR .bx_bl 1 |> code [0x83, 0xC3, 0xFF]))
      (fun t => t.regs.bx == 0 && flagsAre t.flags true true true true false false) = true := by
  decide +kernel

theorem test_rule_addAccImm :
    sees (step (start |> setR .ax_al 0x8000 |> code [0x05, 0x00, 0x80]))
      (fun t => t.regs.ax == 0 && flagsAre t.flags true true false true false true) = true := by
  decide +kernel

theorem test_AR3_adcRmReg :
    sees (step (start |> setF 0xF003 |> setR .ax_al 0xFFFF |> setR .bx_bl 0 |> code [0x11, 0xD8]))
      (fun t => t.regs.ax == 0 && flagsAre t.flags true true true true false false) = true := by
  decide +kernel

theorem test_rule_adcRmImm :
    sees (step (start |> setF 0xF003 |> code [0x81, 0xD3, 0xFF, 0xFF]))
      (fun t => t.regs.bx == 0 && flagsAre t.flags true true true true false false) = true := by
  decide +kernel

theorem test_rule_adcRm8Imm8 :
    sees (step (start |> setF 0xF003 |> code [0x82, 0xD3, 0x7F]))
      (fun t => t.regs.bx == 0x80 && flagsAre t.flags false false true false true true) = true := by
  decide +kernel

theorem test_rule_adcRm16Imm8 :
    sees (step (start |> setF 0xF003 |> setR .bx_bl 1 |> code [0x83, 0xD3, 0xFE]))
      (fun t => t.regs.bx == 0 && flagsAre t.flags true true true true false false) = true := by
  decide +kernel

theorem test_rule_adcAccImm :
    sees (step (start |> setF 0xF003 |> setR .ax_al 0xEF |> code [0x14, 0x10]))
      (fun t => t.regs.ax == 0 && flagsAre t.flags true true true true false false) = true := by
  decide +kernel

theorem test_rule_subRmReg :
    sees (step (start |> setR .ax_al 1 |> setR .bx_bl 2 |> code [0x29, 0xD8]))
      (fun t => t.regs.ax == 0xFFFF && flagsAre t.flags true true true false true false) = true := by
  decide +kernel

theorem test_rule_subRmImm :
    sees (step (start |> setR .bx_bl 0x8001 |> code [0x81, 0xEB, 0x01, 0x80]))
      (fun t => t.regs.bx == 0 && flagsAre t.flags false true false true false false) = true := by
  decide +kernel

theorem test_rule_subRm8Imm8 :
    sees (step (start |> setR .bx_bl 0x80 |> code [0x82, 0xEB, 0x01]))
      (fun t => t.regs.bx == 0x7F && flagsAre t.flags false false true false false true) = true := by
  decide +kernel

theorem test_rule_subRm16Imm8 :
    sees (step (start |> code [0x83, 0xEB, 0xFF]))
      (fun t => t.regs.bx == 1 && flagsAre t.flags true false true false false false) = true := by
  decide +kernel

theorem test_AR4_subAccImm :
    sees (step (start |> setR .ax_al 0 |> code [0x2C, 0x01]))
      (fun t => t.regs.ax == 0xFF && flagsAre t.flags true true true false true false) = true := by
  decide +kernel

theorem test_AR5_sbbRmReg :
    sees (step (start |> setF 0xF003 |> setR .ax_al 0 |> setR .bx_bl 0xFFFF |> code [0x1B, 0xC3]))
      (fun t => t.regs.ax == 0 && flagsAre t.flags true true true true false false) = true := by
  decide +kernel

theorem test_rule_sbbRmImm :
    sees (step (start |> setF 0xF003 |> code [0x81, 0xDB, 0x00, 0x00]))
      (fun t => t.regs.bx == 0xFFFF && flagsAre t.flags true true true false true false) = true := by
  decide +kernel

theorem test_rule_sbbRm8Imm8 :
    sees (step (start |> setF 0xF003 |> setR .bx_bl 0x80 |> code [0x82, 0xDB, 0x7F]))
      (fun t => t.regs.bx == 0 && flagsAre t.flags false true true true false true) = true := by
  decide +kernel

theorem test_rule_sbbRm16Imm8 :
    sees (step (start |> setF 0xF003 |> setR .bx_bl 5 |> code [0x83, 0xDB, 0xFF]))
      (fun t => t.regs.bx == 5 && flagsAre t.flags true true true false false false) = true := by
  decide +kernel

theorem test_rule_sbbAccImm :
    sees (step (start |> setF 0xF003 |> code [0x1C, 0x00]))
      (fun t => t.regs.ax == 0xFF && flagsAre t.flags true true true false true false) = true := by
  decide +kernel

theorem test_AR27_cmpRmReg :
    sees (step (start |> setR .ax_al 1 |> setR .bx_bl 2 |> code [0x39, 0xD8]))
      (fun t => flagsAre t.flags true true true false true false && t.regs.ax == 1 && t.regs.bx == 2) = true := by
  decide +kernel

theorem test_AR27b_cmpRmReg :
    sees (step (start |> setR .ax_al 1 |> setR .bx_bl 2 |> code [0x3B, 0xD8]))
      (fun t => flagsAre t.flags false false false false false false) = true := by
  decide +kernel

theorem test_rule_cmpRmImm :
    sees (step (start |> setR .bx_bl 0x80 |> code [0x80, 0xFB, 0x01]))
      (fun t => t.regs.bx == 0x80 && flagsAre t.flags false false true false false true) = true := by
  decide +kernel

theorem test_rule_cmpRm8Imm8 :
    sees (step (start |> setR .bx_bl 5 |> code [0x82, 0xFB, 0x05]))
      (fun t => t.regs.bx == 5 && flagsAre t.flags false true false true false false) = true := by
  decide +kernel

theorem test_rule_cmpRm16Imm8 :
    sees (step (start |> setR .bx_bl 0xFFFF |> code [0x83, 0xFB, 0xFF]))
      (fun t => t.regs.bx == 0xFFFF && flagsAre t.flags false true false true false false) = true := by
  decide +kernel

theorem test_AR6_cmpAccImm :
    sees (step (start |> setR .ax_al 0x80 |> code [0x3C, 0x01]))
      (fun t => t.regs.ax == 0x80 && flagsAre t.flags false false true false false true) = true := by
  decide +kernel

theorem test_rule_andRmReg :
    sees (step (start |> setR .ax_al 0xF0F0 |> setR .bx_bl 0xFF0 |> code [0x21, 0xD8]))
      (fun t => t.regs.ax == 0xF0 && flagsAre t.flags false true none false false false) = true := by
  decide +kernel

theorem test_rule_andRmImm :
    sees (step (start |> setR .bx_bl 0xF3 |> code [0x80, 0xE3, 0x81]))
      (fun t => t.regs.bx == 0x81 && flagsAre t.flags false true none false true false) = true := by
  decide +kernel

theorem test_LG1_andAccImm :
    sees (step (start |> setF 0xF803 |> setR .ax_al 0x12F5 |> code [0x24, 0x0F]))
      (fun t => t.regs.ax == 0x1205 && flagsAre t.flags false true none false false false) = true := by
  decide +kernel

theorem test_LG2_orRmReg :
    sees (step (start |> setR .ax_al 0x8000 |> setR .bx_bl 1 |> code [0x09, 0xD8]))
      (fun t => t.regs.ax == 0x8001 && flagsAre t.flags false false none false true false) = true := by
  decide +kernel

theorem test_LG7_orRmImm :
    sees (step (start |> setR .bx_bl 1 |> code [0x80, 0xCB, 0x80]))
      (fun t => t.regs.bx == 0x81 && flagsAre t.flags false true none false true false) = true := by
  decide +kernel

theorem test_rule_orAccImm :
    sees (step (start |> setR .ax_al 1 |> code [0x0D, 0x00, 0x80]))
      (fun t => t.regs.ax == 0x8001 && flagsAre t.flags false false none false true false) = true := by
  decide +kernel

theorem test_LG3_xorRmReg :
    sees (step (start |> setF 0xF003 |> setR .ax_al 0x1234 |> code [0x31, 0xC0]))
      (fun t => t.regs.ax == 0 && flagsAre t.flags false true none true false false) = true := by
  decide +kernel

theorem test_LG6_xorRmImm :
    sees (step (start |> word 0x41000 0xF00F |> code [0x81, 0x36, 0x00, 0x10, 0xFF, 0xFF]))
      (fun t => t.loadWord 0x41000 == 0xFF0 && flagsAre t.flags false true none false false false
          && t.ip == 0x106) = true := by
  decide +kernel

theorem test_rule_xorAccImm :
    sees (step (start |> setR .ax_al 0xF |> code [0x34, 0xFF]))
      (fun t => t.regs.ax == 0xF0 && flagsAre t.flags false true none false true false) = true := by
  decide +kernel

theorem test_AR10_incRm :
    sees (step (start |> setR .bx_bl 0x20 |> byte 0x40020 0x7F |> code [0xFE, 0x07]))
      (fun t => t.loadByte 0x40020 == 0x80 && flagsAre t.flags false false true false true true) = true := by
  decide +kernel

theorem test_AR8_incReg :
    sees (step (start |> setF 0xF003 |> setR .ax_al 0xFFFF |> code [0x40]))
      (fun t => t.regs.ax == 0 && flagsAre t.flags true true true true false false) = true := by
  decide +kernel

theorem test_AR8b_incReg :
    sees (step (start |> setR .ax_al 0xFFFF |> code [0x40]))
      (fun t => t.regs.ax == 0 && flagsAre t.flags false true true true false false) = true := by
  decide +kernel

theorem test_rule_decRm :
    sees (step (start |> setR .bx_bl 0x20 |> code [0xFE, 0x0F]))
      (fun t => t.loadByte 0x40020 == 0xFF && flagsAre t.flags false true true false true false) = true := by
  decide +kernel

theorem test_AR9_decReg :
    sees (step (start |> setR .ax_al 0x8000 |> code [0x48]))
      (fun t => t.regs.ax == 0x7FFF && flagsAre t.flags false true true false false true) = true := by
  decide +kernel

theorem test_LG4b_testRmImm :
    sees (step (start |> setR .bx_bl 0x20 |> byte 0x40020 0x7F |> code [0xF6, 0x07, 0x80]))
      (fun t => t.loadByte 0x40020 == 0x7F && flagsAre t.flags false true none true false false
          && t.ip == 0x103) = true := by
  decide +kernel

theorem test_LG5_notRm :
    sees (step (start |> setR .ax_al 0xFF |> setF 0xF8D7 |> code [0xF7, 0xD0]))
      (fun t => t.regs.ax == 0xFF00 && t.flags.image == 0xF8D7) = true := by
  decide +kernel

theorem test_AR11b_negRm :
    sees (step (start |> setR .ax_al 0x80 |> code [0xF6, 0xD8]))
      (fun t => t.regs.ax == 0x80 && flagsAre t.flags true false false false true true) = true := by
  decide +kernel

theorem test_AR11c_negRm :
    sees (step (start |> setR .bx_bl 1 |> code [0xF7, 0xDB]))
      (fun t => t.regs.bx == 0xFFFF && flagsAre t.flags true true true false true false) = true := by
  decide +kernel

theorem test_AR12_mulRm :
    sees (step (start |> setR .ax_al 0xFFFF |> setR .bx_bl 0xFFFF |> code [0xF7, 0xE3]))
      (fun t => t.regs.dx == 0xFFFE && t.regs.ax == 1 && flagsAre t.flags true none none none none true) = true := by
  decide +kernel

theorem test_AR12b_mulRm :
    sees (step (start |> setR .ax_al 0x310 |> setR .bx_bl 0xF |> code [0xF6, 0xE3]))
      (fun t => t.regs.ax == 0xF0 && flagsAre t.flags false none none none none false) = true := by
  decide +kernel

theorem test_AR13_imulRm :
    sees (step (start |> setR .ax_al 0x80 |> setR .bx_bl 0xFF |> code [0xF6, 0xEB]))
      (fun t => t.regs.ax == 0x80 && flagsAre t.flags true none none none none true) = true := by
  decide +kernel

theorem test_AR13b_imulRm :
    sees (step (start |> setR .ax_al 0xFFFF |> setR .bx_bl 2 |> setR .dx_dl 0x1234 |> code [0xF7, 0xEB]))
      (fun t => t.regs.dx == 0xFFFF && t.regs.ax == 0xFFFE
          && flagsAre t.flags false none none none none false) = true := by
  decide +kernel

theorem test_AR16_divRm :
    sees (step (start |> setR .dx_dl 1 |> setR .ax_al 0 |> setR .bx_bl 2 |> code [0xF7, 0xF3]))
      (fun t => t.regs.ax == 0x8000 && t.regs.dx == 0) = true := by
  decide +kernel

theorem test_AR15b_divRm :
    sees (step (start |> ivt |> setR .ax_al 0x400 |> setR .bx_bl 2 |> setF 0xF202 |> code [0xF6, 0xF3]))
      (fun t => t.loadWord 0x200FE == 0xF202 && t.loadWord 0x200FC == 0x1000 && t.loadWord 0x200FA == 0x102
          && t.regs.sp == 0xFA && t.regs.ax == 0x400 && t.segs.cs == 0xF000 && t.ip == 0x500 && !t.flags.ifl) = true := by
  decide +kernel

theorem test_AR18_idivRm :
    sees (step (start |> setR .dx_dl 0xFFFF |> setR .ax_al 0xFFF9 |> setR .bx_bl 0xFFFE |> code [0xF7, 0xFB]))
      (fun t => t.regs.ax == 3 && t.regs.dx == 0xFFFF) = true := by
  decide +kernel

theorem test_AR17e_idivRm :
    sees (step (start |> ivt |> setR .ax_al 0x80 |> setR .bx_bl 1 |> code [0xF6, 0xFB]))
      (fun t => t.ip == 0x500 && t.segs.cs == 0xF000) = true := by
  decide +kernel

theorem test_AR14b_imulRegRmImm16 :
    sees (step (start |> setR .cx_cl 2 |> code [0x69, 0xD9, 0x00, 0x40]))
      (fun t => t.regs.bx == 0x8000 && flagsAre t.flags true none none none none true) = true := by
  decide +kernel

theorem test_AR14c_imulRegRmImm16 :
    sees (step (start |> setR .cx_cl 0xFFFE |> code [0x69, 0xD9, 0x00, 0x40]))
      (fun t => t.regs.bx == 0x8000 && flagsAre t.flags false none none none none false) = true := by
  decide +kernel

theorem test_AR14_imulRegRmImm8 :
    sees (step (start |> setR .bx_bl 3 |> code [0x6B, 0xC3, 0xF6]))
      (fun t => t.regs.ax == 0xFFE2 && flagsAre t.flags false none none none none false && t.ip == 0x103) = true := by
  decide +kernel

theorem test_AR21b_aaa :
    sees (step (start |> setR .ax_al 0xFF |> code [0x37]))
      (fun t => t.regs.ax == 0x105 && flagsAre t.flags true none true none none none) = true := by
  decide +kernel

theorem test_AR21c_aaa :
    sees (step (start |> setR .ax_al 0x135 |> code [0x37]))
      (fun t => t.regs.ax == 0x105 && flagsAre t.flags false none false none none none) = true := by
  decide +kernel

theorem test_AR22_aas :
    sees (step (start |> setF 0xF012 |> setR .ax_al 0x1FF |> code [0x3F]))
      (fun t => t.regs.ax == 9 && flagsAre t.flags true none true none none none) = true := by
  decide +kernel

theorem test_AR22b_aas :
    sees (step (start |> setF 0xF012 |> setR .ax_al 0 |> code [0x3F]))
      (fun t => t.regs.ax == 0xFF0A && flagsAre t.flags true none true none none none) = true := by
  decide +kernel

theorem test_AR19_daa :
    sees (step (start |> setR .ax_al 0x9A |> code [0x27]))
      (fun t => t.regs.ax == 0 && flagsAre t.flags true true true true false none) = true := by
  decide +kernel

theorem test_AR19c_daa :
    sees (step (start |> setF 0xF013 |> setR .ax_al 0x12 |> code [0x27]))
      (fun t => t.regs.ax == 0x78 && flagsAre t.flags true true true false false none) = true := by
  decide +kernel

theorem test_AR20_das :
    sees (step (start |> setF 0xF013 |> setR .ax_al 0xFF |> code [0x2F]))
      (fun t => t.regs.ax == 0x99 && flagsAre t.flags true true true false true none) = true := by
  decide +kernel

theorem test_AR20b_das :
    sees (step (start |> setR .ax_al 0x1F |> code [0x2F]))
      (fun t => t.regs.ax == 0x19 && flagsAre t.flags false false true false false none) = true := by
  decide +kernel

theorem test_AR23_aam :
    sees (step (start |> setR .ax_al 0x3F |> code [0xD4, 0x0A]))
      (fun t => t.regs.ax == 0x603 && flagsAre t.flags none true none false false none) = true := by
  decide +kernel

theorem test_AR23b_aam :
    sees (step (start |> setR .ax_al 0xFF |> code [0xD4, 0x0A]))
      (fun t => t.regs.ax == 0x1905 && flagsAre t.flags none true none false false none) = true := by
  decide +kernel

theorem test_AR24_aad :
    sees (step (start |> setR .ax_al 0x603 |> code [0xD5, 0x0A]))
      (fun t => t.regs.ax == 0x3F && flagsAre t.flags none true none false false none) = true := by
  decide +kernel

theorem test_AR24b_aad :
    sees (step (start |> setR .ax_al 0xFFFF |> code [0xD5, 0x0A]))
      (fun t => t.regs.ax == 0xF5 && flagsAre t.flags none true none false true none) = true := by
  decide +kernel

theorem test_AR25_cbw :
    sees (step (start |> setR .ax_al 0x80 |> code [0x98]))
      (fun t => t.regs.ax == 0xFF80 && flagsAre t.flags false false false false false false) = true := by
  decide +kernel

theorem test_AR26_cwd :
    sees (step (start |> setR .ax_al 0x8000 |> code [0x99]))
      (fun t => t.regs.dx == 0xFFFF && flagsAre t.flags false false false false false false) = true := by
  decide +kernel

theorem test_LG4_testRmReg :
    sees (step (start |> setR .ax_al 0x8000 |> code [0x85, 0xC0]))
      (fun t => t.regs.ax == 0x8000 && flagsAre t.flags false true none false true false) = true := by
  decide +kernel

theorem test_LG4c_testAccImm :
    sees (step (start |> setR .ax_al 1 |> code [0xA8, 0x01]))
      (fun t => flagsAre t.flags false false none false false false) = true := by
  decide +kernel

theorem test_SH9_rolRm1 :
    sees (step (start |> setR .ax_al 0x81 |> code [0xD0, 0xC0]))
      (fun t => t.regs.ax == 3 && flagsAre t.flags true false false false false true) = true := by
  decide +kernel

theorem test_rule_rolRmCl :
    sees (step (start |> setR .ax_al 0x81 |> setR .cx_cl 2 |> code [0xD2, 0xC0]))
      (fun t => t.regs.ax == 6 && flagsAre t.flags false false false false false none) = true := by
  decide +kernel

theorem test_SH13_rolRmImm :
    sees (step (start |> setR .ax_al 0xA5 |> code [0xC0, 0xC0, 0x08]))
      (fun t => t.regs.ax == 0xA5 && flagsAre t.flags true false false false false none) = true := by
  decide +kernel

theorem test_SH10_rorRm1 :
    sees (step (start |> setR .ax_al 1 |> code [0xD1, 0xC8]))
      (fun t => t.regs.ax == 0x8000 && flagsAre t.flags true false false false false true) = true := by
  decide +kernel

theorem test_rule_rorRmCl :
    sees (step (start |> setR .ax_al 3 |> setR .cx_cl 2 |> code [0xD2, 0xC8]))
      (fun t => t.regs.ax == 0xC0 && flagsAre t.flags true false false false false none) = true := by
  decide +kernel

theorem test_SH13b_rorRmImm :
    sees (step (start |> setR .ax_al 0xA5 |> code [0xC0, 0xC8, 0x08]))
      (fun t => t.regs.ax == 0xA5 && flagsAre t.flags true false false false false none) = true := by
  decide +kernel

theorem test_SH17_rclRm1 :
    sees (step (start |> setR .ax_al 0x80 |> code [0xD0, 0xD0]))
      (fun t => t.regs.ax == 0 && flagsAre t.flags true false false false false true) = true := by
  decide +kernel

theorem test_rule_rclRmCl :
    sees (step (start |> setR .ax_al 0x80 |> setR .cx_cl 2 |> code [0xD2, 0xD0]))
      (fun t => t.regs.ax == 1 && flagsAre t.flags false false false false false none) = true := by
  decide +kernel

theorem test_SH11_rclRmImm :
    sees (step (start |> setF 0xF003 |> setR .ax_al 0xA5 |> code [0xC0, 0xD0, 0x09]))
      (fun t => t.regs.ax == 0xA5 && flagsAre t.flags true false false false false none) = true := by
  decide +kernel

theorem test_SH18_rclRmImm :
    sees (step (start |> setF 0xF003 |> setR .bx_bl 0x1234 |> code [0xC1, 0xD3, 0x11]))
      (fun t => t.regs.bx == 0x1234 && flagsAre t.flags true false false false false none) = true := by
  decide +kernel

theorem test_SH12_rcrRm1 :
    sees (step (start |> setF 0xF003 |> setR .ax_al 1 |> code [0xD0, 0xD8]))
      (fun t => t.regs.ax == 0x80 && flagsAre t.flags true false false false false true) = true := by
  decide +kernel

theorem test_rule_rcrRmCl :
    sees (step (start |> setR .ax_al 1 |> setR .cx_cl 2 |> code [0xD2, 0xD8]))
      (fun t => t.regs.ax == 0x80 && flagsAre t.flags false false false false false none) = true := by
  decide +kernel

theorem test_rule_rcrRmImm :
    sees (step (start |> setF 0xF003 |> setR .ax_al 0xA5 |> code [0xC0, 0xD8, 0x09]))
      (fun t => t.regs.ax == 0xA5 && flagsAre t.flags true false false false false none) = true := by
  decide +kernel

theorem test_SH14_shlRm1 :
    sees (step (start |> setR .bx_bl 0x20 |> word 0x40020 0xC000 |> code [0xD1, 0x27]))
      (fun t => t.loadWord 0x40020 == 0x8000 && flagsAre t.flags true true none false true false) = true := by
  decide +kernel

theorem test_SH15_shlRm1 :
    sees (step (start |> setR .ax_al 0x40 |> code [0xD0, 0xE0]))
      (fun t => t.regs.ax == 0x80 && flagsAre t.flags false false none false true true) = true := by
  decide +kernel

theorem test_SH4_shlRmCl :
    sees (step (start |> setF 0xF843 |> setR .ax_al 0x81 |> setR .cx_cl 0x20 |> code [0xD2, 0xE0]))
      (fun t => t.regs.ax == 0x81 && flagsAre t.flags true false false true false true) = true := by
  decide +kernel

theorem test_SH5_shlRmCl :
    sees (step (start |> setR .ax_al 0x81 |> setR .cx_cl 0x21 |> code [0xD2, 0xE0]))
      (fun t => t.regs.ax == 2 && flagsAre t.flags true false none false false true) = true := by
  decide +kernel

theorem test_SH1_shlRmImm :
    sees (step (start |> setR .ax_al 0x1234 |> code [0xC1, 0xE0, 0x04]))
      (fun t => t.regs.ax == 0x2340 && flagsAre t.flags true false none false false none) = true := by
  decide +kernel

theorem test_SH5b_shlRmImm :
    sees (step (start |> setR .ax_al 1 |> code [0xC0, 0xE0, 0xFF]))
      (fun t => t.regs.ax == 0 && flagsAre t.flags false true none true false none && t.ip == 0x103) = true := by
  decide +kernel

theorem test_SH6_shrRm1 :
    sees (step (start |> setR .ax_al 0x8001 |> code [0xD1, 0xE8]))
      (fun t => t.regs.ax == 0x4000 && flagsAre t.flags true true none false false true) = true := by
  decide +kernel

theorem test_SH19_shrRmCl :
    sees (step (start |> setR .bx_bl 0xFFFF |> setR .cx_cl 0x10 |> code [0xD3, 0xEB]))
      (fun t => t.regs.bx == 0 && flagsAre t.flags true true none true false none) = true := by
  decide +kernel

theorem test_rule_shrRmImm :
    sees (step (start |> setR .ax_al 0x1234 |> code [0xC1, 0xE8, 0x04]))
      (fun t => t.regs.ax == 0x123 && flagsAre t.flags false false none false false none) = true := by
  decide +kernel

theorem test_SH16_sarRm1 :
    sees (step (start |> setF 0xF802 |> setR .ax_al 0x81 |> code [0xD0, 0xF8]))
      (fun t => t.regs.ax == 0xC0 && flagsAre t.flags true true none false true false) = true := by
  decide +kernel

theorem test_SH7_sarRmCl :
    sees (step (start |> setR .ax_al 0x80 |> setR .cx_cl 7 |> code [0xD2, 0xF8]))
      (fun t => t.regs.ax == 0xFF && flagsAre t.flags false true none false true none) = true := by
  decide +kernel

theorem test_SH8_sarRmImm :
    sees (step (start |> setR .ax_al 0x8000 |> code [0xC1, 0xF8, 0x1F]))
      (fun t => t.regs.ax == 0xFFFF && flagsAre t.flags true true none false true none) = true := by
  decide +kernel

theorem test_SH8b_sarRmImm :
    sees (step (start |> setR .ax_al 0x4000 |> code [0xC1, 0xF8, 0x1F]))
      (fun t => t.regs.ax == 0 && flagsAre t.flags false true none true false none) = true := by
  decide +kernel

theorem test_ST1_movs :
    sees (step (start |> setR .si_dh 0x10 |> setR .di_bh 0x20 |> byte 0x40010 0xAA |> code [0xA4]))
      (fun t => t.loadByte 0x30020 == 0xAA && t.regs.si == 0x11 && t.regs.di == 0x21) = true := by
  decide +kernel

theorem test_ST2_movs :
    sees (step (start |> setF 0xF402 |> setR .si_dh 0x10 |> setR .di_bh 0x20 |> word 0x40010 0xBBAA
        |> code [0xA5]))
      (fun t => t.loadWord 0x30020 == 0xBBAA && t.regs.si == 0xE && t.regs.di == 0x1E) = true := by
  decide +kernel

theorem test_ST13_cmps :
    sees (step (start |> setF 0xF402 |> setR .si_dh 0x10 |> setR .di_bh 0x20 |> byte 0x40010 0x80
        |> byte 0x30020 1 |> code [0xA6]))
      (fun t => t.regs.si == 0xF && t.regs.di == 0x1F && flagsAre t.flags false false true false false true) = true := by
  decide +kernel

theorem test_ST12_scas :
    sees (step (start |> setR .di_bh 0x20 |> setR .ax_al 1 |> word 0x30020 2 |> code [0xAF]))
      (fun t => t.regs.di == 0x22 && flagsAre t.flags true true true false true false) = true := by
  decide +kernel

theorem test_ST7_lods :
    sees (step (start |> setR .si_dh 0xFFFE |> word 0x4FFFE 0x1234 |> code [0xAD]))
      (fun t => t.regs.ax == 0x1234 && t.regs.si == 0) = true := by
  decide +kernel

theorem test_ST14_stos :
    sees (step (start |> setR .di_bh 0xFFFF |> setR .ax_al 0x41 |> code [0xAA]))
      (fun t => t.loadByte 0x3FFFF == 0x41 && t.regs.di == 0) = true := by
  decide +kernel

theorem test_ST15_stos :
    stops (step (start |> setR .di_bh 0xFFFF |> setR .ax_al 0x4142 |> code [0xAB])) .wordAtFFFF = true := by
  decide +kernel

theorem test_rule_ins :
    sees (step (start |> setR .di_bh 0x20 |> setR .dx_dl 0x300 |> port 0x300 0x77 |> code [0x6C]))
      (fun t => t.loadByte 0x30020 == 0x77 && t.regs.di == 0x21) = true := by
  decide +kernel

theorem test_rule_outs :
    sees (step (start |> setR .si_dh 0x10 |> setR .dx_dl 0x300 |> word 0x40010 0x201 |> code [0x6F]))
      (fun t => t.portLog == [{ port := 0x300, wide := true, value := 0x201 }] && t.regs.si == 0x12) = true := by
  decide +kernel

theorem test_rule_rep :
    sees (twoSteps (start |> setR .si_dh 0x10 |> setR .di_bh 0x20 |> setR .cx_cl 2 |> byte 0x40010 0xAA
        |> code [0xF3, 0xA4]))
      (fun t => t.loadByte 0x30020 == 0xAA && t.regs.cx == 1 && t.regs.si == 0x11 && t.ip == 0x102
          && t.activity == .repeating .movs .byte) = true := by
  decide +kernel

theorem test_CT6_callNear :
    sees (step (start |> code [0xE8, 0x10, 0x00]))
      (fun t => t.loadWord 0x200FE == 0x103 && t.regs.sp == 0xFE && t.ip == 0x113) = true := by
  decide +kernel

theorem test_CT6b_callNear :
    sees (step (start |> code [0xE8, 0xFD, 0xFF]))
      (fun t => t.loadWord 0x200FE == 0x103 && t.regs.sp == 0xFE && t.ip == 0x100) = true := by
  decide +kernel

theorem test_CT11_callNearRm :
    sees (step (start |> setR .bx_bl 0x2000 |> code [0xFF, 0xD3]))
      (fun t => t.loadWord 0x200FE == 0x102 && t.regs.sp == 0xFE && t.ip == 0x2000) = true := by
  decide +kernel

theorem test_CT11d_callNearRm :
    sees (step (start |> code [0xFF, 0xD4]))
      (fun t => t.ip == 0x100 && t.loadWord 0x200FE == 0x102 && t.regs.sp == 0xFE) = true := by
  decide +kernel

theorem test_CT8_callFar :
    sees (step (start |> code [0x9A, 0x78, 0x56, 0x34, 0x12]))
      (fun t => t.loadWord 0x200FE == 0x1000 && t.loadWord 0x200FC == 0x105 && t.regs.sp == 0xFC
          && t.segs.cs == 0x1234 && t.ip == 0x5678) = true := by
  decide +kernel

theorem test_CT11c_callFarMem :
    sees (step (start |> setR .bx_bl 0x20 |> word 0x40020 0x3000 |> word 0x40022 0x5000 |> code [0xFF, 0x1F]))
      (fun t => t.loadWord 0x200FE == 0x1000 && t.loadWord 0x200FC == 0x102 && t.regs.sp == 0xFC
          && t.segs.cs == 0x5000 && t.ip == 0x3000) = true := by
  decide +kernel

theorem test_CT2_jmpShort :
    sees (step (start |> code [0xEB, 0x7F]))
      (fun t => t.ip == 0x181) = true := by
  decide +kernel

theorem test_CT2b_jmpShort :
    sees (step (start |> code [0xEB, 0x80]))
      (fun t => t.ip == 0x82) = true := by
  decide +kernel

theorem test_CT3_jmpNear :
    sees (step (start |> fun s => { s with ip := 0xFFF0 } |> code [0xE9, 0x00, 0xFF]))
      (fun t => t.ip == 0xFEF3) = true := by
  decide +kernel

theorem test_CT3b_jmpNear :
    sees (step (start |> code [0xE9, 0xFD, 0xFE]))
      (fun t => t.ip == 0) = true := by
  decide +kernel

theorem test_CT5_jmpNearRm :
    sees (step (start |> setR .bx_bl 0x2000 |> code [0xFF, 0xE3]))
      (fun t => t.ip == 0x2000) = true := by
  decide +kernel

theorem test_CT5b_jmpNearRm :
    sees (step (start |> setR .bx_bl 0x20 |> word 0x40020 0x3000 |> code [0xFF, 0x27]))
      (fun t => t.ip == 0x3000) = true := by
  decide +kernel

theorem test_CT4_jmpFar :
    sees (step (start |> code [0xEA, 0x78, 0x56, 0x34, 0x12]))
      (fun t => t.segs.cs == 0x1234 && t.ip == 0x5678) = true := by
  decide +kernel

theorem test_CT5c_jmpFarMem :
    sees (step (start |> setR .bx_bl 0x20 |> word 0x40020 0x3000 |> word 0x40022 0x5000 |> code [0xFF, 0x2F]))
      (fun t => t.ip == 0x3000 && t.segs.cs == 0x5000) = true := by
  decide +kernel

theorem test_CT7_retNear :
    sees (step (start |> word 0x20100 0x103 |> code [0xC3]))
      (fun t => t.ip == 0x103 && t.regs.sp == 0x102) = true := by
  decide +kernel

theorem test_CT10_retNearImm :
    sees (step (start |> word 0x20100 0x103 |> code [0xC2, 0x04, 0x00]))
      (fun t => t.ip == 0x103 && t.regs.sp == 0x106) = true := by
  decide +kernel

theorem test_CT9_retFar :
    sees (step (start |> word 0x20100 0x105 |> word 0x20102 0x1000 |> code [0xCB]))
      (fun t => t.ip == 0x105 && t.segs.cs == 0x1000 && t.regs.sp == 0x104) = true := by
  decide +kernel

theorem test_CT10b_retFarImm :
    sees (step (start |> word 0x20100 0x105 |> word 0x20102 0x1000 |> code [0xCA, 0x04, 0x00]))
      (fun t => t.ip == 0x105 && t.segs.cs == 0x1000 && t.regs.sp == 0x108) = true := by
  decide +kernel

theorem test_rule_jo :
    sees (step (start |> setF 0xF802 |> code [0x70, 0x10]))
      (fun t => t.ip == 0x112) = true := by
  decide +kernel

theorem test_rule_jno :
    sees (step (start |> code [0x71, 0x10]))
      (fun t => t.ip == 0x112) = true := by
  decide +kernel

theorem test_CT12i_jb :
    sees (step (start |> setF 0xF003 |> code [0x72, 0x80]))
      (fun t => t.ip == 0x82) = true := by
  decide +kernel

theorem test_rule_jnb :
    sees (step (start |> code [0x73, 0x10]))
      (fun t => t.ip == 0x112) = true := by
  decide +kernel

theorem test_CT12_je :
    sees (step (start |> setF 0xF042 |> code [0x74, 0x10]))
      (fun t => t.ip == 0x112) = true := by
  decide +kernel

theorem test_CT12b_je :
    sees (step (start |> code [0x74, 0x10]))
      (fun t => t.ip == 0x102) = true := by
  decide +kernel

theorem test_rule_jne :
    sees (step (start |> code [0x75, 0x10]))
      (fun t => t.ip == 0x112) = true := by
  decide +kernel

theorem test_CT12f_jbe :
    sees (step (start |> code [0x76, 0x10]))
      (fun t => t.ip == 0x102) = true := by
  decide +kernel

theorem test_CT12g_jnbe :
    sees (step (start |> code [0x77, 0x10]))
      (fun t => t.ip == 0x112) = true := by
  decide +kernel

theorem test_rule_js :
    sees (step (start |> setF 0xF082 |> code [0x78, 0x10]))
      (fun t => t.ip == 0x112) = true := by
  decide +kernel

theorem test_rule_jns :
    sees (step (start |> code [0x79, 0x10]))
      (fun t => t.ip == 0x112) = true := by
  decide +kernel

theorem test_CT12h_jp :
    sees (step (start |> setF 0xF006 |> code [0x7A, 0x10]))
      (fun t => t.ip == 0x112) = true := by
  decide +kernel

theorem test_rule_jnp :
    sees (step (start |> code [0x7B, 0x10]))
      (fun t => t.ip == 0x112) = true := by
  decide +kernel

theorem test_CT12c_jl :
    sees (step (start |> setF 0xF082 |> code [0x7C, 0xF0]))
      (fun t => t.ip == 0xF2) = true := by
  decide +kernel

theorem test_CT12d_jl :
    sees (step (start |> setF 0xF882 |> code [0x7C, 0xF0]))
      (fun t => t.ip == 0x102) = true := by
  decide +kernel

theorem test_rule_jnl :
    sees (step (start |> setF 0xF882 |> code [0x7D, 0x10]))
      (fun t => t.ip == 0x112) = true := by
  decide +kernel

theorem test_CT12e_jle :
    sees (step (start |> setF 0xF802 |> code [0x7E, 0x10]))
      (fun t => t.ip == 0x112) = true := by
  decide +kernel

theorem test_rule_jnle :
    sees (step (start |> code [0x7F, 0x10]))
      (fun t => t.ip == 0x112) = true := by
  decide +kernel

theorem test_CT13b_loop :
    sees (step (start |> setR .cx_cl 0 |> code [0xE2, 0xFE]))
      (fun t => t.regs.cx == 0xFFFF && t.ip == 0x100) = true := by
  decide +kernel

theorem test_CT13c_loop :
    sees (step (start |> setF 0xF043 |> setR .cx_cl 2 |> code [0xE2, 0xFE]))
      (fun t => t.regs.cx == 1 && t.ip == 0x100 && flagsAre t.flags true false false true false false) = true := by
  decide +kernel

theorem test_CT14_loopz :
    sees (step (start |> setR .cx_cl 5 |> code [0xE1, 0x10]))
      (fun t => t.regs.cx == 4 && t.ip == 0x102) = true := by
  decide +kernel

theorem test_CT14b_loopz :
    sees (step (start |> setF 0xF042 |> setR .cx_cl 5 |> code [0xE1, 0x10]))
      (fun t => t.regs.cx == 4 && t.ip == 0x112) = true := by
  decide +kernel

theorem test_CT14c_loopnz :
    sees (step (start |> setR .cx_cl 5 |> code [0xE0, 0x10]))
      (fun t => t.regs.cx == 4 && t.ip == 0x112) = true := by
  decide +kernel

theorem test_CT14d_loopnz :
    sees (step (start |> setR .cx_cl 1 |> code [0xE0, 0x10]))
      (fun t => t.regs.cx == 0 && t.ip == 0x102) = true := by
  decide +kernel

theorem test_CT15_jcxz :
    sees (step (start |> code [0xE3, 0x10]))
      (fun t => t.ip == 0x112 && t.regs.cx == 0) = true := by
  decide +kernel

theorem test_CT15b_jcxz :
    sees (step (start |> setR .cx_cl 1 |> code [0xE3, 0x10]))
      (fun t => t.ip == 0x102) = true := by
  decide +kernel

theorem test_CT16_intType :
    sees (step (start |> ivt |> setF 0xFED7 |> code [0xCD, 0x21]))
      (fun t => t.loadWord 0x200FE == 0xFED7 && t.loadWord 0x200FC == 0x1000 && t.loadWord 0x200FA == 0x102
          && t.regs.sp == 0xFA && t.segs.cs == 0xF000 && t.ip == 0x600 && t.flags.image == 0xFCD7) = true := by
  decide +kernel

theorem test_CT17_int3 :
    sees (step (start |> ivt |> setF 0xF202 |> code [0xCC]))
      (fun t => t.loadWord 0x200FE == 0xF202 && t.loadWord 0x200FC == 0x1000 && t.loadWord 0x200FA == 0x101
          && t.regs.sp == 0xFA && t.segs.cs == 0xF000 && t.ip == 0x530 && t.flags.image == 0xF002) = true := by
  decide +kernel

theorem test_CT18_into :
    sees (step (start |> ivt |> code [0xCE]))
      (fun t => t.ip == 0x101 && t.regs.sp == 0x100) = true := by
  decide +kernel

theorem test_CT18b_into :
    sees (step (start |> ivt |> setF 0xFA02 |> code [0xCE]))
      (fun t => t.loadWord 0x200FE == 0xFA02 && t.loadWord 0x200FC == 0x1000 && t.loadWord 0x200FA == 0x101
          && t.regs.sp == 0xFA && t.segs.cs == 0xF000 && t.ip == 0x540 && t.flags.image == 0xF802) = true := by
  decide +kernel

theorem test_CT19_iret :
    sees (step (start |> word 0x20100 0x200 |> word 0x20102 0x5000 |> word 0x20104 0xFFFF
        |> fun s => { s with intc := { s.intc with dhlt := true } } |> code [0xCF]))
      (fun t => t.ip == 0x200 && t.segs.cs == 0x5000 && t.flags.image == 0xFFD7 && t.regs.sp == 0x106
          && !t.intc.dhlt) = true := by
  decide +kernel

theorem test_CT19b_iret :
    sees (step (start |> setF 0xFED7 |> word 0x20100 0x200 |> word 0x20102 0x5000 |> word 0x20104 0
        |> code [0xCF]))
      (fun t => t.ip == 0x200 && t.segs.cs == 0x5000 && t.flags.image == 0xF002 && t.regs.sp == 0x106) = true := by
  decide +kernel

theorem test_HL3b_enter :
    sees (step (start |> setR .bp_ch 0x200 |> word 0x201FE 0x300 |> word 0x201FC 0x400
        |> code [0xC8, 0x00, 0x00, 0x03]))
      (fun t => t.loadWord 0x200FE == 0x200 && t.loadWord 0x200FC == 0x300 && t.loadWord 0x200FA == 0x400
          && t.loadWord 0x200F8 == 0xFE && t.regs.bp == 0xFE && t.regs.sp == 0xF8) = true := by
  decide +kernel

theorem test_HL4_enter :
    sees (step (start |> setR .bp_ch 0x200 |> code [0xC8, 0x04, 0x00, 0x21]))
      (fun t => t.loadWord 0x200FE == 0x200 && t.loadWord 0x200FC == 0xFE && t.regs.bp == 0xFE
          && t.regs.sp == 0xF8) = true := by
  decide +kernel

theorem test_HL5_leave :
    sees (step (start |> setR .bp_ch 0xFE |> setR .sp_ah 0xF6 |> word 0x200FE 0x200 |> code [0xC9]))
      (fun t => t.regs.sp == 0x100 && t.regs.bp == 0x200) = true := by
  decide +kernel

theorem test_HL6c_bound :
    sees (step (start |> setR .ax_al 9 |> setR .bx_bl 0x20 |> word 0x40020 0 |> word 0x40022 9
        |> code [0x62, 0x07]))
      (fun t => t.ip == 0x102) = true := by
  decide +kernel

theorem test_HL6d_bound :
    sees (step (start |> setR .ax_al 0xA |> setR .bx_bl 0x20 |> word 0x40020 0 |> word 0x40022 9
        |> setF 0xF302 |> ivt |> code [0x62, 0x07]))
      (fun t => t.loadWord 0x200FE == 0xF302 && t.loadWord 0x200FC == 0x1000 && t.loadWord 0x200FA == 0x102
          && t.loadWord 0x200F8 == 0xF002 && t.loadWord 0x200F6 == 0xF000 && t.loadWord 0x200F4 == 0x550
          && t.regs.sp == 0xF4 && t.segs.cs == 0xF000 && t.ip == 0x510 && t.flags.image == 0xF002) = true := by
  decide +kernel

theorem test_PC1_clc :
    sees (step (start |> setF 0xFED7 |> code [0xF8]))
      (fun t => t.flags.image == 0xFED6) = true := by
  decide +kernel

theorem test_PC2_stc :
    sees (step (start |> code [0xF9]))
      (fun t => t.flags.image == 0xF003) = true := by
  decide +kernel

theorem test_PC3_cmc :
    sees (step (start |> code [0xF5]))
      (fun t => t.flags.image == 0xF003) = true := by
  decide +kernel

theorem test_PC3b_cmc :
    sees (step (start |> setF 0xFED7 |> code [0xF5]))
      (fun t => t.flags.image == 0xFED6) = true := by
  decide +kernel

theorem test_PC4_cld :
    sees (step (start |> setF 0xFED7 |> code [0xFC]))
      (fun t => t.flags.image == 0xFAD7) = true := by
  decide +kernel

theorem test_PC5_std :
    sees (step (start |> code [0xFD]))
      (fun t => t.flags.image == 0xF402) = true := by
  decide +kernel

theorem test_PC6_cli :
    sees (step (start |> setF 0xFED7 |> code [0xFA]))
      (fun t => t.flags.image == 0xFCD7) = true := by
  decide +kernel

theorem test_PC7_sti :
    sees (step (start |> code [0xFB]))
      (fun t => t.flags.image == 0xF202) = true := by
  decide +kernel

theorem test_PC8_hlt :
    sees (step (start |> code [0xF4]))
      (fun t => t.ip == 0x101 && t.activity == .halted) = true := by
  decide +kernel

theorem test_PC11_wait :
    sees (step (start |> code [0x9B]))
      (fun t => t.ip == 0x101) = true := by
  decide +kernel

theorem test_PC12_lock :
    sees (twoSteps (start |> setR .bx_bl 0x20 |> setR .ax_al 0xAA |> byte 0x40020 0x55
        |> code [0xF0, 0x86, 0x07]))
      (fun t => t.regs.ax == 0x55 && t.loadByte 0x40020 == 0xAA && t.ip == 0x103) = true := by
  decide +kernel

theorem test_PC10_esc :
    sees (step (start |> setR .bx_bl 0x20 |> word 0x40020 0x201 |> fun s => { s with reloc := 0x20FF }
        |> code [0xD8, 0x07]))
      (fun t => t.ip == 0x102 && t.flags.image == 0xF002) = true := by
  decide +kernel

theorem test_PC10c_esc :
    sees (step (start |> ivt |> setF 0xF202 |> fun s => { s with reloc := 0xA0FF } |> code [0xD8, 0x07]))
      (fun t => t.loadWord 0x200FE == 0xF202 && t.loadWord 0x200FC == 0x1000 && t.loadWord 0x200FA == 0x100
          && t.regs.sp == 0xFA && t.segs.cs == 0xF000 && t.ip == 0x570 && t.flags.image == 0xF002) = true := by
  decide +kernel

theorem test_DT4_segEs :
    sees (twoSteps (start |> setR .bp_ch 0x80 |> word 0x30082 0x2211 |> code [0x26, 0x8B, 0x46, 0x02]))
      (fun t => t.regs.ax == 0x2211 && t.ip == 0x104) = true := by
  decide +kernel

theorem test_rule_segCs :
    sees (twoSteps (start |> setR .bx_bl 0x20 |> byte 0x10020 0x42 |> code [0x2E, 0x8A, 0x07]))
      (fun t => t.regs.ax == 0x42 && t.ip == 0x103) = true := by
  decide +kernel

theorem test_rule_segSs :
    sees (twoSteps (start |> setR .bx_bl 0x20 |> byte 0x20020 0x42 |> code [0x36, 0x8A, 0x07]))
      (fun t => t.regs.ax == 0x42) = true := by
  decide +kernel

theorem test_rule_segDs :
    sees (twoSteps (start |> setR .bp_ch 0x80 |> byte 0x40082 0x42 |> code [0x3E, 0x8A, 0x46, 0x02]))
      (fun t => t.regs.ax == 0x42) = true := by
  decide +kernel

/-! ### Boundaries, stops and unlisted encodings -/

theorem test_SQ2_single_step :
    sees (step (start |> ivt |> setF 0xF102 |> code [0x90]))
      (fun t => t.loadWord 0x200FE == 0xF102 && t.loadWord 0x200FC == 0x1000 && t.loadWord 0x200FA == 0x101
          && t.regs.sp == 0xFA && t.segs.cs == 0xF000 && t.ip == 0x510 && t.flags.image == 0xF002) = true := by
  decide +kernel

theorem test_SQ4a_inhibit :
    sees (step (start |> ivt |> setF 0xF102 |> setR .ax_al 0x5000 |> code [0x8E, 0xD8, 0x90]))
      (fun t => t.flags.image == 0xF102 && t.ip == 0x102 && t.segs.cs == 0x1000) = true := by
  decide +kernel

theorem test_SQ6_nmi :
    sees (step (start |> ivt |> fun s => { s with nmiLatch := true } |> code [0x40]))
      (fun t => t.loadWord 0x200FE == 0xF002 && t.loadWord 0x200FC == 0x1000 && t.loadWord 0x200FA == 0x101
          && t.regs.sp == 0xFA && t.regs.ax == 1 && t.ip == 0x520 && t.intc.dhlt) = true := by
  decide +kernel

theorem test_UD1_unused_opcode :
    sees (step (start |> ivt |> setF 0xF202 |> code [0x0F]))
      (fun t => t.loadWord 0x200FE == 0xF202 && t.loadWord 0x200FC == 0x1000 && t.loadWord 0x200FA == 0x101
          && t.regs.sp == 0xFA && t.segs.cs == 0xF000 && t.ip == 0x560 && t.flags.image == 0xF002) = true := by
  decide +kernel

theorem test_UD5_unused_group :
    sees (step (start |> ivt |> setF 0xF202 |> code [0x83, 0xC8]))
      (fun t => t.loadWord 0x200FE == 0xF202 && t.loadWord 0x200FC == 0x1000 && t.loadWord 0x200FA == 0x102
          && t.regs.sp == 0xFA && t.segs.cs == 0xF000 && t.ip == 0x560 && t.flags.image == 0xF002) = true := by
  decide +kernel

theorem test_UD16_rep_nop :
    stops (twoSteps (start |> code [0xF3, 0x90])) .repeatNonString = true := by
  decide +kernel

theorem test_UD17_two_overrides :
    stops (twoSteps (start |> code [0x26, 0x2E, 0x8A, 0x07])) .repeatedPrefix = true := by
  decide +kernel

/-! ### Peripherals -/

/-- A DMA channel 0 set up by register writes. -/
def channel0 (ctrl count : Word) (s : State) : State :=
  s |> wr 0xC0 0x1000 |> wr 0xC2 0 |> wr 0xC4 0x2000 |> wr 0xC6 0 |> wr 0xC8 count |> wr 0xCA ctrl

/-- DM1: memory to memory, bytes, both pointers up: one transfer of the first byte. -/
theorem test_DM1_transfer :
    sees (step (start |> channel0 0xB606 4 |> word 0x1000 0x2211)) (fun t => t.loadByte 0x2000 == 0x11 &&
      t.dma.ch0.src == 0x1001 && t.dma.ch0.dst == 0x2001 && t.dma.ch0.count == 3 && t.regs.ax == 0 && t.ip == 0x100) =
      true := by decide +kernel

/-- DM3: the source pointer passes FFFFFH. -/
theorem test_DM3_pointer_wraps :
    sees (step (start |> channel0 0xB606 4 |> wr 0xC0 0xFFFF |> wr 0xC2 0xF |> byte 0xFFFFF 7))
      (fun t => t.loadByte 0x2000 == 7 && t.dma.ch0.src == 0) = true := by decide +kernel

/-- Timer 2 with a maximum count of 3, as TM1 sets it up, after `n` slots. -/
def timer2After (mode : Word) : Nat → State
  | 0 => start |> wr 0x62 3 |> wr 0x60 0 |> wr 0x66 mode
  | n + 1 => (timer2After mode n).timerSlot .t2

/-- TM1: the third count event reaches the maximum, clears the count, sets MC and asks for the interrupt. -/
theorem test_TM1_maximum :
    ((timer2After 0xE001 2).readBlock 0x60).1 = 2 ∧ ((timer2After 0xE001 3).readBlock 0x60).1 = 0 ∧
      ((timer2After 0xE001 3).readBlock 0x66).1 = 0xA021 ∧ ((timer2After 0xE001 3).readBlock 0x30).1 = 4 := by
  decide +kernel

/-- TM2: with CONT = 0 it stops there. -/
theorem test_TM2_stops : ((timer2After 0xE000 3).readBlock 0x66).1 = 0x2020 := by decide +kernel

/-- CS1 and CS2: UCS after reset selects the top 1K; UMCS = F838H the top 32K. -/
theorem test_CS_ucs :
    start.chip.ucs 0xFFBFF = some false ∧ start.chip.ucs 0xFFC00 = some true ∧
      (start |> wr 0xA0 0xF838).chip.ucs 0xF7FFF = some false ∧
      (start |> wr 0xA0 0xF838).chip.ucs 0xF8000 = some true := by decide +kernel

/-- INT0 at level 4 and INT1 at level 5, both unmasked and HIGH, IF = 1 (IC1, IC2). -/
def twoPins (s : State) : State :=
  (((s |> wr 0x38 0x14 |> wr 0x3A 0x15 |> entry 12 0x5C0).setPin .int0 true).setPin .int1 true) |> setF 0xF202

/-- IC2: INT0 wins, its type is 12, its in-service bit is set, and the boundary comes after the instruction. -/
theorem test_IC2_int0_first :
    sees (step (twoPins start |> code [0x90])) (fun t => t.ip == 0x5C0 && t.segs.cs == 0xF000 &&
      (t.readBlock 0x2C).1 == 0x0010 && t.loadWord 0x200FA == 0x101 && !t.flags.ifl) = true := by decide +kernel

/-- IC5: the poll word names INT0, and Poll acknowledges it. -/
theorem test_IC5_poll :
    ((twoPins start).readBlock 0x26).1 = 0x800C ∧ ((twoPins start).readBlock 0x24).1 = 0x800C ∧
      (((twoPins start).readBlock 0x24).2.readBlock 0x2C).1 = 0x0010 ∧
      (((twoPins start).readBlock 0x26).2.readBlock 0x2C).1 = 0 := by decide +kernel

/-! ### The platform, and what comes between two bus cycles -/

/-- ROM, a device and nothing in memory space; nothing at port 400H. -/
def mapped (s : State) : State :=
  { s with
    memMap := [{ first := 0x50000, last := 0x50001, place := .rom }, { first := 0x50002, last := 0x50003, place := .device },
      { first := 0x50004, last := 0x50004, place := .nothing }]
    ioMap := [{ first := 0x400, last := 0x400, device := false }]
    memDevices := [(0x50002, 0x77)] }

/-- D3: ROM keeps what it holds, a device answers and takes a byte, nothing refuses. -/
theorem test_D3_places :
    let s := mapped (start |> byte 0x50000 0x11)
    sees (memWrite .byte 0x50000 0x22 s) (fun t => t.loadByte 0x50000 == 0x11) = true ∧
      sees (memWrite .byte 0x50002 0x22 s) (fun t => t.memLog == [{ addr := 0x50002, value := 0x22 }]) = true ∧
      stops (memWrite .byte 0x50004 0x22 s) .unpopulated = true ∧ stops (ioWrite .byte 0x400 1 s) .unpopulated = true := by
  decide +kernel

/-- What is to happen inside the next step. -/
def during (l : List Between) (s : State) : State := { s with agenda := .cpu :: l.map .between }

/-- R567: a DMA transfer between the read and the write of INC byte [BX] reads the byte before the write. -/
theorem test_R567_between_read_and_write :
    sees (step (start |> channel0 0xB606 4 |> wr 0xC0 0x20 |> wr 0xC2 4 |> setR .bx_bl 0x20 |> byte 0x40020 5
        |> code [0xFE, 0x07] |> during [.pass, .dma .c0]))
      (fun t => t.loadByte 0x40020 == 6 && t.loadByte 0x2000 == 5 && t.agenda.isEmpty) = true := by decide +kernel

/-- R600: an external master's write there is lost under the write of the same byte; LOCK keeps it away. -/
theorem test_R600_master_between :
    sees (step (start |> setR .bx_bl 0x20 |> byte 0x40020 5 |> code [0xFE, 0x07]
        |> during [.pass, .master (.write 0x40020 9), .pass])) (fun t => t.loadByte 0x40020 == 6) = true ∧
      sees (step (start |> setR .bx_bl 0x20 |> byte 0x40020 5 |> code [0xFE, 0x07] |> fun s =>
        { (s |> during [.master (.write 0x40020 9)]) with pfx := { Pfx.none with lock := true } }))
        (fun t => t.loadByte 0x40020 == 6 && !t.agenda.isEmpty) = true := by decide +kernel

/-- R620: RES between the two byte cycles of a word written at an odd address leaves its first byte written. -/
theorem test_R620_torn_word :
    sees (step (start |> setR .bx_bl 0x21 |> setR .ax_al 0x2211 |> code [0x89, 0x07] |> during [.midReset false]))
      (fun t => t.loadByte 0x40021 == 0x11 && t.loadByte 0x40022 == 0 && t.segs.cs == 0xFFFF && t.ip == 0) = true := by
  decide +kernel

/-- A device at 50000H to 500FFH of memory. -/
def withDevice (s : State) : State := { s with memMap := [{ first := 0x50000, last := 0x500FF, place := .device }] }

/-- R141, D10: a locked store, and a DMA transfer, of a word at an odd address of a device, in either order of its
bytes. -/
theorem test_R141_both_orders :
    let lo : MemWrite := { addr := 0x50021, value := 0x11 }
    let hi : MemWrite := { addr := 0x50022, value := 0x22 }
    let store (l : List Between) := step (withDevice (start |> (fun s => { s with
      segs := { s.segs with ds := 0x5000 }, pfx := { Pfx.none with lock := true } }) |> setR .bx_bl 0x21
      |> setR .ax_al 0x2211 |> code [0x89, 0x07] |> during l))
    let move (l : List Between) := step { withDevice (start |> channel0 0xB607 1 |> wr 0xC0 0x20 |> wr 0xC2 4
      |> wr 0xC4 0x21 |> wr 0xC6 5 |> byte 0x40020 0x11 |> byte 0x40021 0x22) with agenda := .dma .c0 :: l.map .between }
    sees (store []) (fun t => t.memLog == [hi, lo]) = true ∧
      sees (store [.byteOrder true]) (fun t => t.memLog == [lo, hi] && t.agenda.isEmpty) = true ∧
      sees (move []) (fun t => t.memLog == [hi, lo]) = true ∧
      sees (move [.byteOrder true]) (fun t => t.memLog == [lo, hi] && t.agenda.isEmpty) = true := by decide +kernel

/-- R141, R567: of two DMA transfers of words at odd addresses of a device before one cycle of the CPU, each has the
order given for it, and the store of INC byte [BX] comes after both. -/
theorem test_R141_two_transfers :
    let w (a : Addr) (v : Byte) : MemWrite := { addr := a, value := v }
    let s := withDevice (start |> channel0 0xB607 2 |> wr 0xC0 0x20 |> wr 0xC2 4 |> wr 0xC4 0x21 |> wr 0xC6 5
      |> byte 0x40020 0x11 |> byte 0x40021 0x22 |> byte 0x40022 0x33 |> byte 0x40023 0x44 |> setR .bx_bl 0x20
      |> code [0xFE, 0x07])
    let run (first second : Bool) := step (s |> during [.pass, .dma .c0, .byteOrder first, .dma .c0, .byteOrder second, .pass])
    sees (run true false) (fun t => t.memLog == [w 0x50024 0x44, w 0x50023 0x33, w 0x50021 0x11, w 0x50022 0x22] &&
        t.loadByte 0x40020 == 0x12 && t.agenda.isEmpty) = true ∧
      sees (run true true) (fun t => t.memLog == [w 0x50023 0x33, w 0x50024 0x44, w 0x50021 0x11, w 0x50022 0x22] &&
        t.agenda.isEmpty) = true ∧
      sees (run false true) (fun t => t.memLog == [w 0x50023 0x33, w 0x50024 0x44, w 0x50022 0x22, w 0x50021 0x11] &&
        t.agenda.isEmpty) = true := by decide +kernel

/-- R470, D30: seen from outside, the pushes may come before the table reads; a master's byte between them is read. -/
theorem test_R470_pushes_first :
    sees (step (start |> ivt |> code [0xCC] |> during [.pushesFirst, .pass, .pass, .pass, .master (.write 12 0x77), .pass]))
      (fun t => t.ip == 0x577 && t.regs.sp == 0xFA) = true := by decide +kernel

/-- R600: HOLD raised before the write of INC byte [BX], and not released there, rises after the step; released before
the write, it lets a master go and no DMA channel. -/
theorem test_R600_hold_in_a_step :
    let s := start |> channel0 0xB606 4 |> wr 0xC0 0x20 |> wr 0xC2 4 |> setR .bx_bl 0x20 |> byte 0x40020 5
      |> code [0xFE, 0x07]
    let raise := Between.world (.pin .hold true)
    sees (step (s |> during [.pass, raise, .dma .c0, .pass])) (fun t => t.loadByte 0x40020 == 6 && !t.pins.hold &&
        sees (step t) (fun u => u.pins.hold && sees (step { u with agenda := [.cpu] }) (fun v => v.ip == u.ip))) = true ∧
      sees (step (s |> during [.pass, raise, .dma .c0, .master (.write 0x40021 9), .world (.pin .hold false), .pass]))
        (fun t => t.loadByte 0x40020 == 6 && t.loadByte 0x40021 == 9 && t.loadByte 0x2000 == 0 && t.agenda.isEmpty) = true := by
  decide +kernel

/-- R600, R363: at the boundary of a locked MOVSB with HOLD HIGH an NMI waits for the bus, and is taken after it with
the offset of the prefixes to return to. -/
theorem test_R600_boundary_waits :
    let s : State := { (start |> ivt |> setR .cx_cl 3 |> code [0xF0, 0xF3, 0xA4]) with
      ip := 0x102, ipStart := 0x100, activity := .repeating .movs .byte, nmiLatch := true, agenda := [.cpu]
      pfx := { Pfx.none with lock := true, rep := some true }, pins := { start.pins with hold := true } }
    sees (step s) (fun t => t.due.isSome && t.nmiLatch && t.regs.cx == 2 && t.granted && t.ip == 0x100 &&
      sees (step (t.setPin .hold false)) (fun u => u.due.isNone && !u.nmiLatch && u.ip == 0x520 &&
        u.loadWord 0x200FA == 0x100)) = true := by decide +kernel

/-- R445: with ET = 1 the second byte of ESC is not fetched, though it lies in the control block. -/
theorem test_R445_esc_first_byte :
    let s : State := { (start |> ivt) with ip := 0xFF, reloc := 0xB101 }
    sees (step (s |> code [0xD8, 0x07])) (fun t => t.ip == 0x570 && t.loadWord 0x200FA == 0xFF) = true ∧
      stops (step { (s |> code [0xD8, 0x07]) with reloc := 0x3101 }) .blockAccess = true := by decide +kernel

/-- R496: the acknowledge of a cascaded INT0 has its two cycles on INTA0, which is INT2, and takes the external byte. -/
theorem test_R496_inta0 :
    sees (step (twoPins start |> ivt |> wr 0x38 0x24 |> (fun s => { s with intaByte := 33 }) |> code [0x90]))
      (fun t => t.acks == [.int2] && t.ip == 0x600) = true := by decide +kernel

/-- R71 and R546: PACS has the READY mode of PCS0 to PCS3, MPCS that of PCS4 to PCS6; ranges that overlap answer none.
-/
theorem test_R71_R546 :
    let c := (start |> wr 0xA4 0x003A |> wr 0xA8 0x81BD).chip
    c.readyFor (.pcs 3) = (2, false) ∧ c.readyFor (.pcs 4) = (1, true) ∧ c.readyFor .ucs = (3, false) ∧
      (start |> wr 0xA2 0x3FF8 |> wr 0xA6 0x01F8 |> wr 0xA8 0x81B8).chip.lcs 0 = none := by decide +kernel

/-- R550: after reset PCS5 and PCS6 carry no address bit until PACS and MPCS have been accessed. -/
theorem test_R550_latched :
    start.chip.latchedAddress false 0x2 = none ∧
      (start |> wr 0xA4 0x0038 |> wr 0xA8 0x8038).chip.latchedAddress false 0x2 = some true := by decide +kernel

/-! ### The statements' hypotheses are met

One theorem for each statement with hypotheses, with boundary values; `w_` names the state it is about. -/

/-- The common start state with the CPU to move next and nothing under way. -/
def ready : State := { start with agenda := [.cpu] }

/-- BP and BX at the end of their segments, SP at both ends of its own. -/
def edge (sp : Word) : State :=
  start |> setR .sp_ah sp |> setR .bx_bl 0xFFFE |> setR .bp_ch 0xFFFF |> setR .si_dh 0xFFFE |> setR .di_bh 0xFFFE

theorem witness_DecodeEncode :
    (Instr.movSregRm .ds (.mem (.disp8 .bp 0))).wf = true ∧ (Instr.xchgAxReg .di_bh).wf = true ∧
      (Instr.esc 7 7 (.mem (.direct 0xFFFF))).wf = true := by decide

theorem witness_StepRunsDecoded :
    let s := ready |> code [0x90]
    s.agenda = .cpu :: [] ∧ s.granted = false ∧ s.due = none ∧ s.activity = .running ∧
      decode s.fetchBytes = .instr .nop 1 ∧
      s.fetchesRefused 1 = none ∧ (s.pfx.rep.isSome = true → isPrefix .nop = true ∨ isString .nop = true) := by
  decide +kernel

theorem witness_StepRunsDecoded_no_agenda :
    let s := start |> code [0xC8, 0x04, 0x00, 0x02]
    s.agenda = [] ∧ s.dmaNext = none ∧ s.granted = false ∧ s.due = none ∧ s.activity = .running ∧
      decode s.fetchBytes = .instr (.enter 4 2) 4 ∧ s.fetchesRefused 4 = none ∧ s.pfx.rep = none := by decide +kernel

theorem witness_StepRunsDecoded_yielded_and_prefixed :
    let s : State := { (start |> code [0xA4]) with
      dma := { start.dma with yielded := true }, pfx := { Pfx.none with rep := some true } }
    s.agenda = [] ∧ s.dma.yielded = true ∧ s.granted = false ∧ s.due = none ∧ s.activity = .running ∧
      decode s.fetchBytes = .instr (.movs .byte) 1 ∧ s.fetchesRefused 1 = none ∧
      (s.pfx.rep.isSome = true → isPrefix (.movs .byte) = true ∨ isString (.movs .byte) = true) := by
  decide +kernel

/-- ESC with ET = 1 whose second byte lies in the control block. -/
theorem witness_StepRunsDecoded_esc :
    let s : State := { ready with ip := 0xFF, reloc := 0xB101 } |> code [0xD8, 0x07]
    s.agenda = .cpu :: [] ∧ s.granted = false ∧ s.due = none ∧ s.activity = .running ∧
      decode s.fetchBytes = .instr (.esc 0 0 (.mem (.plain .bx))) 2 ∧
      s.fetchesRefused (s.fetchLength (.esc 0 0 (.mem (.plain .bx))) 2) = none ∧ s.fetchesRefused 2 ≠ none ∧
      s.pfx.rep = none := by decide +kernel

theorem witness_StepWithoutInstruction :
    ({ ready with pins := { ready.pins with hold := true } }.granted = true ∧
      { ready with pins := { ready.pins with hold := true }, activity := .repeating .movs .word
                   pfx := { Pfx.none with lock := true } }.granted = false ∧
      { ready with due := some { traced := true, wait := false } }.due = some { traced := true, wait := false }) ∧
    (ready.granted = false ∧ ready.due = none ∧ { ready with activity := .halted }.activity = .halted ∧
      { ready with activity := .waiting }.activity = .waiting ∧
      { ready with activity := .repeating .movs .word }.activity = .repeating .movs .word) ∧
    (let s := ready |> ivt |> code [0x0F]
     s.agenda = .cpu :: [] ∧ s.granted = false ∧ s.due = none ∧ s.activity = .running ∧ s.flags.tf = false ∧ s.inhibit = false ∧
      s.inhibitInt = false ∧ s.nmiLatch = false ∧ decode s.fetchBytes = .unlisted .ua 1 ∧ s.fetchesRefused 1 = none ∧
      ((s.setAgenda []).takeBus).undisturbed = true ∧ plainVector s 6 = true ∧ roomFor s 3 = true) := by
  decide +kernel

/-- RAM and ROM at the fetched address, with an overwritten byte on record and without; the last offset of the
segment. -/
theorem witness_FetchedByteIsNewOrQueued :
    (start.place (start.codeAddr 0) = .ram ∧ start.stale = [] ∧ start.mem.wf = true ∧ 0x100FF#20 ≠ start.codeAddr 0 ∧
      start.codeAddr 65535 = 0x100FF#20) ∧
    (let s := start.storeByte (start.codeAddr 0) 0x90
     s.place (s.codeAddr 0) = .ram ∧ s.stale = [{ addr := 0x10100, old := 0, ahead := 0 }]) ∧
    (let s : State := { mapped start with segs := { start.segs with cs := 0x5000 }, ip := 0 }
     s.place (s.codeAddr 0) = .rom) := by decide +kernel

theorem witness_PrefixBytes :
    (start.pfx.seg = none ∧ start.pfx.lock = false ∧ start.pfx.rep = none) ∧
    (let s : State := { ready with pfx := { seg := some .es, rep := some true, lock := true } } |> code [0x90]
     s.pfx.seg ≠ none ∧ s.pfx.lock = true ∧ s.pfx.rep ≠ none ∧ s.agenda = .cpu :: [] ∧ s.granted = false ∧
      s.due = none ∧ s.activity = .running ∧ decode s.fetchBytes = .instr .nop 1 ∧
      s.fetchesRefused (s.fetchLength .nop 1) = none ∧ isPrefix .nop = false ∧ isString .nop = false) := by
  decide +kernel

theorem witness_ResetValues : ∃ t s rest, s.agenda = .reset :: rest ∧ step s = .next t := by
  obtain ⟨t, ht⟩ := next_of_completes (x := step { start with agenda := [.reset] }) (by decide +kernel)
  exact ⟨t, _, [], rfl, ht⟩

theorem witness_StepKeepsInvariant : ∃ s t, Inv s ∧ step s = .next t := by
  obtain ⟨t, ht⟩ := next_of_completes (x := step (start |> code [0x60])) (by decide +kernel)
  exact ⟨_, t, ⟨by decide +kernel, by decide, by decide, by decide, by decide, by decide, by decide, by decide,
    by decide, by decide⟩, ht⟩

theorem witness_OperandAddresses :
    (Base.bp, start.regs.bp, start.segs.ss) ∈
      [(Base.bxSi, start.regs.bx + start.regs.si, start.segs.ds), (.bp, start.regs.bp, start.segs.ss)] := by simp

theorem witness_WordStoreThenReads :
    start.mem.wf = true ∧ start.undisturbed = true ∧ plainAt start .word 0x00000 = true ∧
      plainAt start .word 0x12345 = true ∧ plainAt start .word 0xFFFFF = true := by decide +kernel

theorem witness_WordAtSegmentEndRefused :
    0xFFFD ≤ (0xFFFD#16).toNat ∧ 0xFFFD ≤ (0xFFFF#16).toNat ∧ (edge 1).regs.sp = 1#16 ∧
      (edge 0xFFFF).regs.sp = 0xFFFF#16 := by decide +kernel

theorem witness_CyclesReachTheirPlace :
    (let m : State := { start with reloc := 0x1100 }
     m.undisturbed = true ∧ m.blockInMem 0x10000 = true ∧ m.blockInMem 0x100FE = true ∧
      (0x100FE#20).getLsbD 0 = false ∧ m.place 0x100FE = .ram ∧ m.place 0x100FF = .ram ∧ m.blockInMem 0x100FF = true ∧
      (0x100FF#20).getLsbD 0 = true ∧ m.blockInMem 0x0FFFF = false ∧ (0x0FFFF#20).getLsbD 0 = true ∧
      m.blockInMem 0x10100 = false) ∧
    (start.undisturbed = true ∧ start.blockInIO 0xFF00 = true ∧ start.blockInIO 0xFFFE = true ∧
      (0xFFFE#16).getLsbD 0 = false ∧ reservedPort 0xFFFE = false ∧ start.blockInIO 0xFFFF = true ∧
      (0xFFFF#16).getLsbD 0 = true ∧ reservedPort 0xFFFF = false ∧ reservedPort (0xFFFF + 1) = false ∧
      start.blockInIO 0xFEFF = false ∧ reservedPort 0xFEFF = false ∧ reservedPort 0xFF00 = false) ∧
    (let s := mapped start
     s.undisturbed = true ∧ s.blockInMem 0x50001 = false ∧ s.place 0x4FFFF = .ram ∧ s.place 0x50000 = .rom ∧
      s.place 0x50001 = .rom ∧ s.place 0x50002 = .device ∧ portLookup s.memDevices 0x50002 = some 0x77 ∧
      s.place 0x50004 = .nothing ∧ s.place (0x50003 + 1) = .nothing ∧ s.place 0x50005 = .ram ∧
      s.blockInIO 0x400 = false ∧ reservedPort 0x400 = false ∧ deviceIn s.ioMap (0x400#16).toNat = false ∧
      deviceIn s.ioMap (0x3FF#16 + 1).toNat = false ∧ deviceIn s.ioMap (0x401#16).toNat = true) := by decide +kernel

/-- Both spaces, with bit 14 as it was and changed; the first base in I/O space that is refused. -/
theorem witness_RelocationMovesBlock :
    ((0x1FFF#16).getLsbD 12 = true ∧ (0x1FFF#16).getLsbD 14 = start.rmx) ∧
      ((0x80FF#16).extractLsb' 8 4 = 0#4 ∧ (0x80FF#16).getLsbD 12 = false ∧ (0x80FF#16).getLsbD 14 = start.rmx) ∧
      ((0x60FF#16).extractLsb' 8 4 = 0#4 ∧ (0x60FF#16).getLsbD 14 ≠ start.rmx) ∧
      ((0x0100#16).getLsbD 12 = false ∧ (0x0100#16).extractLsb' 8 4 ≠ 0#4) := by
  decide +kernel

theorem witness_BetweenTheCycles :
    let s (b : Between) (rest : List Turn) : State := { start with agenda := .between b :: rest }
    (s .pass []).agenda = .between .pass :: [] ∧ (s .reset []).agenda = .between .reset :: [] ∧
      { s (.dma .c0) [] with pfx := { Pfx.none with lock := true } }.pfx.lock = true ∧
      (s (.midMaster true (.write 5 6)) []).pfx.lock = false ∧
      plainAt (s (.midMaster true (.write 5 6)) []) .word 0xFFFFF = true ∧
      plainAt (s (.midMaster true (.write 5 6)) []) .word 0x12344 = true ∧
      plainAt (s (.midMaster true (.write 5 6)) []) .byte 5 = true ∧ (0xFFFFF#20).getLsbD 0 = true := by decide +kernel

/-- A DMA channel that may go and completes, before a cycle that `pass` lets through. -/
theorem witness_BetweenTheCycles_dma :
    let s : State := start |> channel0 0xB606 4 |> fun s => { s with agenda := [.between (.dma .c0), .between .pass] }
    s.pfx.lock = false ∧ s.pins.hold = false ∧ s.dmaMayGo .c0 = true ∧
      completes (dmaTransfer .c0 (s.setAgenda [.between .pass])) = true ∧ (s.setPin .hold true).pins.hold = true ∧
      start.dmaMayGo .c0 = false := by decide +kernel

/-- Two transfers before one cycle, the first of which uses the order given for it. -/
theorem witness_BetweenTheCycles_two_transfers :
    let later : List Turn := [.between (.dma .c0), .between .pass]
    let s : State := { withDevice (start |> channel0 0xB607 2 |> wr 0xC0 0x20 |> wr 0xC2 4 |> wr 0xC4 0x21 |> wr 0xC6 5) with
      agenda := .between (.dma .c0) :: .between (.byteOrder true) :: later }
    s.pfx.lock = false ∧ s.pins.hold = false ∧ s.dmaMayGo .c0 = true ∧
      sees (dmaTransfer .c0 (s.setAgenda (.between (.byteOrder true) :: later))) (fun t =>
        decide (t.agenda = later) && !t.pins.hold && t.dmaMayGo .c0 &&
          completes (dmaTransfer .c0 (t.setAgenda [.between .pass]))) = true := by decide +kernel

/-- The order of the byte cycles of a word at the last odd address of a device, at an even one, and at an odd port. -/
theorem witness_BetweenTheCycles_order :
    let s : State := { withDevice start with agenda := [.between (.byteOrder true)] }
    s.agenda = .between (.byteOrder true) :: [] ∧ s.blockInMem 0x500FD = false ∧ s.blockInMem (0x500FD + 1) = false ∧
      s.place 0x500FD = .device ∧ s.place (0x500FD + 1) = .device ∧ (0x500FD#20).getLsbD 0 = true ∧
      s.place 0x500FE = .device ∧ s.place (0x500FE + 1) = .device ∧ plainPort s .word 0x301 = true ∧
      plainPort s .word 0x300 = true := by decide +kernel

/-- HOLD rising alone, under LOCK, and released after a master's write; the outside world and others met outside a
step. -/
theorem witness_BetweenTheCycles_hold :
    let raise := Between.world (.pin .hold true)
    let later : List Turn := [.between (.world (.pin .hold false)), .between .pass]
    let s (l : List Turn) : State := { start with agenda := .between raise :: l }
    (s [.between .pass]).pfx.lock = false ∧
      { s [.between .pass] with pfx := { Pfx.none with lock := true } }.pfx.lock = true ∧
      (s (.between (.master (.write 0x2000 9)) :: later)).agenda =
        .between raise :: .between (.master (.write 0x2000 9)) :: later ∧
      plainAt (s later) .byte 0x2000 = true ∧ World.slot .t2 ≠ .pin .hold true ∧ World.pin .hold false ≠ .pin .hold true ∧
      Between.pass ≠ .reset := by decide +kernel

theorem witness_MovResults :
    let s := edge 0
    s.undisturbed = true ∧ plainLoc s .word (s.locate (.mem (.plain .bx))) = true ∧
      plainLoc s .byte (s.locate (.mem (.disp8 .bp 0))) = true ∧ plainLoc s .word (s.locate (.reg .sp_ah)) = true ∧
      plain s .word (s.segment .ds) 0xFFFE = true ∧ plain s .byte (s.segment .ds) 0xFFFF = true := by decide +kernel

theorem witness_SegmentLoads :
    let s := edge 0xFFFE
    s.undisturbed = true ∧ SegReg.ds ≠ .cs ∧ plainLoc s .word (s.locate (.mem (.plain .bx))) = true ∧
      plain s .word s.segs.ss s.regs.sp = true ∧
      plainPointer s (s.memSeg (.direct 0xFFFC)) (s.ea (.direct 0xFFFC)) = true := by decide +kernel

theorem witness_PushPopResults :
    (let s := edge 0
     s.undisturbed = true ∧ plain s .word s.segs.ss (s.regs.sp - 2) = true ∧
      plainLoc s .word (s.locate (.mem (.plain .bx))) = true ∧ Reg.ax_al ≠ .sp_ah) ∧
    plain (edge 2) .word (edge 2).segs.ss ((edge 2).regs.sp - 2) = true := by decide +kernel

theorem witness_PushPopResults_held :
    let s := edge 0xFFFE
    s.undisturbed = true ∧ plain s .word s.segs.ss s.regs.sp = true ∧
      plainLoc s .word (s.locate (.mem (.plain .bx))) = true := by decide +kernel

theorem witness_PushaPopaResults :
    (edge 0).undisturbed = true ∧ roomFor (edge 0) 8 = true ∧ (edge 0).mem.wf = true ∧ roomFor (edge 0x10) 8 = true ∧
      roomFor (edge 8) 8 = true ∧ heldOn (edge 0xFFF0) 8 = true ∧ heldOn (edge 0xFFFA) 8 = true := by decide +kernel

theorem witness_ExchangeTranslateFlagTransfer :
    let s := edge 0 |> setR .ax_al 1
    s.undisturbed = true ∧ plainLoc s .word (s.locate (.mem (.plain .bx))) = true ∧
      s.regs.bx + (s.getReg .byte .ax_al).setWidth 16 = 0xFFFF#16 ∧
      plain s .byte (s.segment .ds) (s.regs.bx + (s.getReg .byte .ax_al).setWidth 16) = true := by decide +kernel

theorem witness_PortResults :
    start.undisturbed = true ∧ plainPort start .byte ((0xF7#8).setWidth 16) = true ∧
      plainPort start .word ((0xF6#8).setWidth 16) = true ∧ plainPort start .word ((0#8).setWidth 16) = true ∧
      plainPort (start |> setR .dx_dl 0x100) .word 0x100 = true ∧
      plainPort (start |> setR .dx_dl 0xFEFE) .word (start |> setR .dx_dl 0xFEFE).regs.dx = true ∧
      0xF8 ≤ (0xF8#8).toNat ∧ 0xF8 ≤ (0xFF#8).toNat ∧ (start |> setR .dx_dl 0xF8).regs.dx.toNat = 0xF8 ∧
      (start |> setR .dx_dl 0xFF).regs.dx.toNat ≤ 0xFF ∧ (start |> setR .dx_dl 0xF7).regs.dx = 0x00F7#16 := by
  decide +kernel

/-- The operand places of ADD, SUB, INC, MUL, AND and their likes: memory at the end of a segment, and a register. -/
theorem witness_operands :
    let s := edge 0
    s.undisturbed = true ∧ plainLoc s .word (s.locate (.mem (.plain .bx))) = true ∧
      plainLoc s .byte (s.locate (.mem (.disp8 .bp 0))) = true ∧ plainLoc s .word (s.locate (.reg .bp_ch)) = true ∧
      plainLoc s .byte (s.locate (.reg .bp_ch)) = true := by decide +kernel

theorem witness_AddSubtractResults : (edge 0).undisturbed = true ∧
    plainLoc (edge 0) (Imm.word 1).width ((edge 0).locate (.mem (.plain .bx))) = true ∧
    plainLoc (edge 0) (Imm.byte 1).width ((edge 0).locate (.mem (.disp8 .bp 0))) = true :=
  ⟨witness_operands.1, witness_operands.2.1, witness_operands.2.2.1⟩

theorem witness_IncDecNegResults : (edge 0).undisturbed = true ∧
    plainLoc (edge 0) .word ((edge 0).locate (.mem (.plain .bx))) = true :=
  ⟨witness_operands.1, witness_operands.2.1⟩

theorem witness_MultiplyResults : (edge 0).undisturbed = true ∧
    plainLoc (edge 0) .byte ((edge 0).locate (.mem (.disp8 .bp 0))) = true ∧
    plainLoc (edge 0) .word ((edge 0).locate (.mem (.plain .bx))) = true :=
  ⟨witness_operands.1, witness_operands.2.2.1, witness_operands.2.1⟩

theorem witness_LogicResults : (edge 0).undisturbed = true ∧
    plainLoc (edge 0) (Imm.word 1).width ((edge 0).locate (.mem (.plain .bx))) = true :=
  ⟨witness_operands.1, witness_operands.2.1⟩

/-- The largest quotient of each division, and the smallest of the signed ones: 255, 65535, 127, -128, 32767, -32768. -/
theorem witness_DivideResults :
    let b (ax bl : Word) := start |> setR .ax_al ax |> setR .bx_bl bl
    let w (dx ax bx : Word) := start |> setR .dx_dl dx |> setR .ax_al ax |> setR .bx_bl bx
    (start.undisturbed = true ∧ plainLoc start .byte (.reg .bx_bl) = true ∧ plainLoc start .word (.reg .bx_bl) = true) ∧
    (b 0x1FF 2).regs.ax.toNat / (valueOf (b 0x1FF 2) .byte (.reg .bx_bl)).toNat = 255 ∧
    (b 0x1FF 2).regs.ax.toNat / 2 < 256 ∧
    (b 0xFF 2).regs.ax.toInt.tdiv (valueOf (b 0xFF 2) .byte (.reg .bx_bl)).toInt = 127 ∧
    (b 0xFF00 2).regs.ax.toInt.tdiv (valueOf (b 0xFF00 2) .byte (.reg .bx_bl)).toInt = -128 ∧
    ((w 1 0xFFFF 2).regs.dx ++ (w 1 0xFFFF 2).regs.ax).toNat / (w 1 0xFFFF 2).regs.bx.toNat = 65535 ∧
    ((w 0 0xFFFF 2).regs.dx ++ (w 0 0xFFFF 2).regs.ax).toInt.tdiv (w 0 0xFFFF 2).regs.bx.toInt = 32767 ∧
    ((w 0xFFFF 0 2).regs.dx ++ (w 0xFFFF 0 2).regs.ax).toInt.tdiv (w 0xFFFF 0 2).regs.bx.toInt = -32768 := by
  decide +kernel

/-- A divisor of 0, and the first quotients that do not fit: 256, 128 and -129. -/
theorem witness_DivideErrorTraps :
    let b (ax bl : Word) := start |> ivt |> setR .ax_al ax |> setR .bx_bl bl
    ((b 1 0).undisturbed = true ∧ plainLoc (b 1 0) .byte ((b 1 0).locate (.reg .bx_bl)) = true ∧
      plainVector (b 1 0) 0 = true ∧ roomFor (b 1 0) 3 = true) ∧
    (valueOf (b 1 0) .byte (.reg .bx_bl)).toNat = 0 ∧
    2 ^ 8 ≤ (b 0x200 2).dividend .byte / (valueOf (b 0x200 2) .byte (.reg .bx_bl)).toNat ∧
    (2 : Int) ^ 7 ≤ ((b 0x100 2).dividendSigned .byte).tdiv (valueOf (b 0x100 2) .byte (.reg .bx_bl)).toInt ∧
    ((b 0xFEFE 2).dividendSigned .byte).tdiv (valueOf (b 0xFEFE 2) .byte (.reg .bx_bl)).toInt < -(2 : Int) ^ 7 := by
  decide +kernel

/-- 99 + 99 and 0 - 99 in packed decimal, as ADD and SUB leave AL, CF and AF. -/
theorem witness_DecimalAdjustsAreDecimal :
    (let s := start |> setR .ax_al 0x32 |> setF 0xF013
     s.getReg .byte .ax_al = packed 99 + packed 99 ∧ s.flags.cf = (s.flags.add (packed 99) (packed 99) false).cf ∧
      s.flags.af = (s.flags.add (packed 99) (packed 99) false).af) ∧
    (let s := start |> setR .ax_al 0x67 |> setF 0xF013
     s.getReg .byte .ax_al = packed 0 - packed 99 ∧ s.flags.cf = (s.flags.sub (packed 0) (packed 99) false).cf ∧
      s.flags.af = (s.flags.sub (packed 0) (packed 99) false).af) := by decide +kernel

theorem witness_ShiftResults : (edge 0).undisturbed = true ∧
    plainLoc (edge 0) .word ((edge 0).locate (.mem (.plain .bx))) = true ∧ (0#8).toNat % 32 = 0 ∧ (32#8).toNat % 32 = 0 ∧
    (224#8).toNat % 32 = 0 := ⟨witness_operands.1, witness_operands.2.1, rfl, rfl, rfl⟩

/-- Every string instruction, with SI and DI at the last word of their segments, up and down, and under an override. -/
theorem witness_StringResults :
    let s := edge 0 |> setR .dx_dl 0x300
    s.undisturbed = true ∧ s.pfx.rep = none ∧
      ([.movs, .cmps, .scas, .lods, .stos, .ins, .outs].all fun op =>
        elementHeld s op .byte && elementHeld s op .word && elementHeld (s |> setF 0xF402) op .word &&
        elementHeld { s with pfx := { s.pfx with seg := some .ss } } op .word) = true := by decide +kernel

theorem witness_StringResults_repeated :
    let s (cx : Word) : State :=
      { (edge 0 |> setR .dx_dl 0x300 |> setR .cx_cl cx) with pfx := { Pfx.none with rep := some true } }
    (s 0).undisturbed = true ∧ (s 0).pfx.rep = some true ∧ (s 0).regs.cx = 0 ∧ (s 1).regs.cx ≠ 0 ∧
      (s 0xFFFF).regs.cx ≠ 0 ∧
      ([.movs, .cmps, .scas, .lods, .stos, .ins, .outs].all fun op =>
        elementHeld (s 1) op .word && elementHeld (s 0xFFFF) op .byte) = true := by decide +kernel

theorem witness_JumpResults :
    let s := edge 0
    s.undisturbed = true ∧ plainLoc s .word (s.locate (.mem (.plain .bx))) = true ∧
      plainPointer s (s.memSeg (.direct 0xFFFC)) (s.ea (.direct 0xFFFC)) = true := by decide +kernel

theorem witness_CallReturnResults :
    let s := edge 0
    s.undisturbed = true ∧ plain s .word s.segs.ss (s.regs.sp - 2) = true ∧ roomFor s 2 = true ∧
      plainLoc s .word (s.locate (.mem (.plain .bx))) = true ∧
      plainPointer s (s.memSeg (.direct 0xFFFC)) (s.ea (.direct 0xFFFC)) = true ∧ roomFor (edge 2) 2 = true := by
  decide +kernel

theorem witness_CallReturnResults_held :
    (edge 0xFFFE).undisturbed = true ∧ heldOn (edge 0xFFFE) 1 = true ∧ heldOn (edge 0xFFFE) 2 = true := by
  decide +kernel

theorem witness_CallReturnResults_both :
    start.mem.wf = true ∧ start.undisturbed = true ∧ plain start .word start.segs.ss (start.regs.sp - 2) = true ∧
      roomFor (edge 2) 2 = true := by decide +kernel

theorem witness_InterruptInstructions :
    let s := start |> ivt
    (s.undisturbed = true ∧ roomFor s 3 = true ∧ roomFor (edge 4) 3 = true ∧ plainVector s 0 = true ∧
      plainVector s 3 = true ∧ plainVector s 4 = true ∧ plainVector s 7 = true ∧ plainVector s 255 = true) ∧
    (s |> setF 0xF802).flags.ofl = true ∧ s.flags.ofl = false ∧ { s with reloc := 0xA0FF }.reloc.getLsbD 15 = true ∧
      plainVector { s with reloc := 0xA0FF } 7 = true ∧ roomFor { s with reloc := 0xA0FF } 3 = true ∧
      s.reloc.getLsbD 15 = false ∧ plainLoc s .word (s.locate (.mem (.direct 0xFFFE))) = true := by decide +kernel

theorem witness_InterruptSequence :
    let s := start |> ivt
    s.mem.wf = true ∧ s.undisturbed = true ∧ plainVector s 255 = true ∧ roomFor s 3 = true := by decide +kernel

theorem witness_InterruptReturn :
    let s := start |> ivt
    s.undisturbed = true ∧ heldOn s 3 = true ∧ heldOn (edge 0xFFFC) 3 = true ∧ s.mem.wf = true ∧ s.pfx.lock = false ∧
      plainVector s 0 = true ∧ roomFor s 3 = true := by decide +kernel

/-- Levels 0, 1 and 31, with the enclosing frames away from what is pushed. -/
theorem witness_EnterBuildsFrame :
    let s := start |> setR .bp_ch 0x200
    s.mem.wf = true ∧ s.undisturbed = true ∧ (32#8).toNat % 32 = 0 ∧ roomFor s 1 = true ∧
      (1#8).toNat % 32 = 0 + 1 ∧ roomFor s 2 = true ∧ displayHeld s 0 = true ∧
      (31#8).toNat % 32 = 30 + 1 ∧ roomFor s 32 = true ∧ displayHeld s 30 = true := by decide +kernel

theorem witness_EnterBuildsFrame_apart (i j : Nat) (hi : i < 2 * 30) (hj : j < 2 * (30 + 2)) :
    0x200#16 - BitVec.ofNat 16 (i + 1) ≠ 0x100#16 - BitVec.ofNat 16 (j + 1) := by bv_omega

/-- The index at the lower bound, at the upper, and one outside each. -/
theorem witness_LeaveAndBoundResults :
    let s (ax : Word) := start |> ivt |> word 0x40020 0x8000 |> word 0x40022 5 |> setR .bx_bl 0x20 |> setR .ax_al ax
    let lower := ((s 0).loadWord (phys ((s 0).memSeg (.plain .bx)) ((s 0).ea (.plain .bx)))).toInt
    let upper := ((s 0).loadWord (phys ((s 0).memSeg (.plain .bx)) ((s 0).ea (.plain .bx) + 2))).toInt
    ((s 0).undisturbed = true ∧ plain (s 0) .word ((s 0).memSeg (.plain .bx)) ((s 0).ea (.plain .bx)) = true ∧
      plain (s 0) .word ((s 0).memSeg (.plain .bx)) ((s 0).ea (.plain .bx) + 2) = true) ∧
    (lower = ((s 0x8000).getReg .word .ax_al).toInt ∧ lower ≤ upper ∧ upper = ((s 5).getReg .word .ax_al).toInt) ∧
    (upper < ((s 6).getReg .word .ax_al).toInt ∧ plainVector (s 6) 5 = true ∧ roomFor (s 6) 3 = true) ∧
    plain (edge 0 |> setR .bp_ch 0xFFFE) .word 0x2000 0xFFFE = true := by decide +kernel

theorem witness_LeaveAndBoundResults_below :
    let s := start |> ivt |> word 0x40022 5 |> setR .bx_bl 0x20 |> setR .ax_al 0xFFFF
    (s.getReg .word .ax_al).toInt < (s.loadWord (phys (s.memSeg (.plain .bx)) (s.ea (.plain .bx)))).toInt ∧
      plainVector s 5 = true ∧ roomFor s 3 = true := by decide +kernel

theorem witness_ProcessorControlResults :
    (start |> setF 0xF202).flags.ifl = true ∧ start.flags.ifl = false ∧ start.pins.test = false ∧
      (start.setPin .test true).pins.test = true := by decide +kernel

theorem witness_OnlyTheDestinationChanges :
    let s := edge 0
    s.undisturbed = true ∧
      destination s (.addRmReg .toRm .word (.mem (.plain .bx)) .ax_al) =
        some (.word, .mem 0x4000 0xFFFE, some (.mem 0x4000 0xFFFE)) ∧
      plainLoc s .word (.mem 0x4000 0xFFFE) = true ∧
      completes (exec (.addRmReg .toRm .word (.mem (.plain .bx)) .ax_al) s) = true ∧
      destination s (.movReg8Imm .sp_ah 7) = some (.byte, .reg .sp_ah, some (.reg .sp_ah)) ∧
      plainLoc s .byte (.reg .sp_ah) = true ∧ completes (exec (.movReg8Imm .sp_ah 7) s) = true ∧
      destination s (.cmpAccImm (.byte 1)) = some (.byte, .reg .ax_al, none) ∧
      completes (exec (.cmpAccImm (.byte 1)) s) = true := by decide +kernel

theorem witness_OnlyTheStoredPlaceChanges :
    let s := edge 0
    s.undisturbed = true ∧ storedBy s .pushCs = some (some (.word, .mem 0x2000 0xFFFE)) ∧
      completes (exec .pushCs s) = true ∧ storedBy s (.movs .word) = some (some (.word, .mem 0x3000 0xFFFE)) ∧
      completes (exec (.movs .word) s) = true ∧ storedBy s .hlt = some none ∧ completes (exec .hlt s) = true := by
  decide +kernel

theorem witness_SegmentsAndControlFlagsGuarded :
    completes (exec .popa start) = true ∧ writesCs .popa = false ∧ SegReg.ds ≠ .cs ∧ writesSegment .popa .ds = false ∧
      writesTf .popa = false ∧ writesIf .popa = false ∧ writesDf .popa = false ∧
      completes (exec .popDs start) = true ∧ writesSegment .popDs .es = false ∧ writesDf .sti = false ∧
      completes (exec .sti start) = true := by decide +kernel

/-- Each arm of the boundary, with the bus and, after a locked instruction, without it. -/
theorem witness_BoundaryOrder :
    { start with inhibit := true }.inhibit = true ∧
      (start.pins.hold = false ∧ start.inhibit = false ∧ { start with nmiLatch := true }.nmiLatch = true) ∧
      (let s := twoPins start
       s.pins.hold = false ∧ s.inhibit = false ∧ s.nmiLatch = false ∧ s.flags.ifl = true ∧ s.inhibitInt = false ∧
        s.presents = true) ∧
      (start.nmiLatch = false ∧ start.flags.ifl = false) ∧ { twoPins start with inhibitInt := true }.inhibitInt = true ∧
      (start |> setF 0xF202).presents = false ∧ start.activity = .running ∧
      { start with activity := .repeating .scas .word }.activity = .repeating .scas .word ∧
      { start with activity := .waiting }.activity = .waiting ∧
      (let s := (twoPins start).setPin .hold true
       s.pins.hold = true ∧ s.inhibit = false ∧ s.flags.ifl = true ∧ s.inhibitInt = false ∧ s.presents = true ∧
        s.activity = .running) ∧
      { start with nmiLatch := true, activity := .repeating .movs .byte }.activity = .repeating .movs .byte := by
  decide +kernel

/-- A rise of NMI where the boundary takes it; a rise while NMI is HIGH already sets no latch. -/
theorem witness_PinChanges :
    (let t := (start |> ivt).setPin .nmi true
     t.nmiLatch = true ∧ t.inhibit = false ∧ t.pins.hold = false ∧ t.undisturbed = true ∧ t.pfx.lock = false ∧
      plainVector t 2 = true ∧ roomFor t 3 = true) ∧
    (({ start with pins := { start.pins with nmi := true } }).setPin .nmi true).nmiLatch = false ∧
    Pin.int0 ≠ .nmi := by decide +kernel

/-- Level 5 is the first that the mask of 4 holds off. -/
theorem witness_PriorityMaskExample :
    sees ((twoPins start).writeReg .prioMask 0x0004#16) (fun t => decide (5 ≤ (t.intc.source .i1).pr.toNat)) = true ∧
      start.intc.prm = State.reset.intc.prm := by decide +kernel

/-- A pin in edge mode, one in cascade mode, and the timers, 0 and 2 asking. -/
theorem witness_AcknowledgeServesPresented :
    (let s := twoPins start
     s.rmx = false ∧ s.presented = some .i0 ∧ s.intc.special .i0 = false ∧ s.intc.cascade .i0 = false) ∧
    (let s := twoPins start |> wr 0x38 0x24
     s.rmx = false ∧ s.presented = some .i0 ∧ s.intc.cascade .i0 = true) ∧
    (let s := start |> wr 0x32 0 |> wr 0x30 5
     s.rmx = false ∧ s.presented = some .tmr ∧ s.intc.irt0 = true ∧ s.intc.irt2 = true) ∧
    (let s := start |> wr 0x34 0 |> wr 0x2E 4
     s.rmx = false ∧ s.presented = some .d0) := by decide +kernel

theorem witness_EndOfInterruptResets :
    let c := ((twoPins start).acknowledged .i0).intc
    ((0x8000#16).getLsbD 15 = true ∧ c.isSource .i0 = true ∧ (c.source .i0).isv = true ∧
      ([IntSource.tmr, .d0, .d1, .i1, .i2, .i3].all fun u => !(c.source u).isv) = true) ∧
    (0x000C#16).getLsbD 15 = false ∧ (0x000C#16).toNat % 32 = 12 ∧ (0x0008#16).toNat % 32 = 8 ∧
      (0x000F#16).toNat % 32 = 15 ∧ IntSource.i1 ≠ .i0 := by decide +kernel

theorem witness_PollWords : (twoPins start).presented = some .i0 ∧ start.presented = none := by decide +kernel

/-- The iRMX 86 mode of IC7: each source at its level, timer 1 alone requesting; INT1 selects the slave or not. -/
def slave (s : State) : State :=
  { s with
    reloc := 0x60FF
    intc := { s.intc with
      ivr := 0x40, irt1 := true
      rT0 := { pr := 0, msk := false, isv := false }, rD0 := { pr := 2, msk := false, isv := false }
      rD1 := { pr := 3, msk := false, isv := false }, rT1 := { pr := 4, msk := false, isv := false }
      rT2 := { pr := 5, msk := false, isv := false } } }

theorem witness_SlaveModeAcknowledge :
    (slave start).rmx = true ∧ (slave start).pins.int1 = false ∧
      (let s := (slave start).setPin .int1 true
       s.rmx = true ∧ s.pins.int1 = true ∧ s.intc.rmxLevelsOk = true ∧ s.intc.rmxEligible .t1 = true ∧
        ([RmxSource.t0, .d0, .d1, .t2].all fun u => !s.intc.rmxEligible u) = true ∧ s.intc.ivr = 0x40#8) := by
  decide +kernel

/-- The first and last offset of each table, in both modes; the holes 64H, 20H, and 24H in iRMX 86 mode. -/
theorem witness_BlockOffsets :
    start.reloc.getLsbD 14 = false ∧ (slave start).reloc.getLsbD 14 = true ∧
      (offsetMap false).contains (0xFE, .reloc) = true ∧ (offsetMap true).contains (0x20, .rmxVector) = true ∧
      (offsetMap false).contains (0x3E, .srcCtrl .i3) = true ∧ (0x64#8).getLsbD 0 = false ∧
      ((offsetMap false).all fun e => e.1 != 0x64#8 && e.1 != 0x20#8) = true ∧
      ((offsetMap true).all fun e => e.1 != 0x24#8) = true := by decide +kernel

/-- The level of timer 2 and one that is no source's; bit 15, which no source has. -/
theorem witness_SlaveModeRegisters :
    (0x000D#16).toNat % 8 = 5 ∧ (0x0001#16).toNat % 8 = 1 ∧ RmxSource.t0 ≠ .t1 ∧ (15 ≠ 5 ∧ 15 ≠ 4) ∧
      sees ((slave start).writeReg (.rmxCtrl .t2) 0x000D) (fun t => (t.readReg (.rmxCtrl .t2)).1 == 0x000D) = true ∧
      stops ((slave start).writeReg (.rmxCtrl .t2) 0x0001) .irmxLevel = true := by decide +kernel

/-- SYN = 11 stopped, started and left started; SFNM with and without C; the levels of the five iRMX sources. -/
theorem witness_RegisterImages :
    let st := fun (v : Word) => if v.getLsbD 2 then v.getLsbD 1 else (start.chan .c0).ctrl.getLsbD 1
    (st 0x00C6 = true ∧ (0x00C6#16).extractLsb' 6 2 = 3#2) ∧ st 0x00C4 = false ∧ st 0x00C2 = false ∧
      (0x0086#16).extractLsb' 6 2 ≠ 3#2 ∧
      ((0x0040#16).getLsbD 6 = true ∧ (0x0040#16).getLsbD 5 = false) ∧ (0x0060#16).getLsbD 5 = true ∧
      (0x0020#16).getLsbD 6 = false ∧ (0x0040#16).toNat % 8 = 0 ∧ (0x0005#16).toNat % 8 = 5 := by decide +kernel

/-- A last transfer, one that goes on, pointers at the top of memory, words, and ports at both ends. -/
theorem witness_DmaTransferResults :
    let s (count : Word) := start |> channel0 0xB706 count |> wr 0xC0 0xFFFF |> wr 0xC2 0xF
    let x (ctrl : Word) := start |> channel0 ctrl 4 |> wr 0xC0 0xFEFE
    ((s 1).mem.wf = true ∧ (s 1).uncut = true ∧ ((s 1).chan .c0).ctrl.getLsbD 0 = false ∧
      ((s 1).chan .c0).ctrl.getLsbD 12 = true ∧ ((s 1).chan .c0).ctrl.getLsbD 15 = true ∧
      ((s 1).chan .c0).ctrl.extractLsb' 6 2 ≠ 3#2 ∧ dmaPlain (s 1) true .byte ((s 1).chan .c0).src = true ∧
      dmaPlain (s 1) true .byte ((s 1).chan .c0).dst = true) ∧
    ((s 1).chan .c0).src = 0xFFFFF#20 ∧ ((s 1).chan .c0).count = 1 ∧ ((s 0).chan .c0).count = 0 ∧
    (((x 0xB607).chan .c0).ctrl.getLsbD 0 = true ∧ dmaPlain (x 0xB607) true .word 0xFFFFF = true) ∧
    (((x 0x2607).chan .c0).ctrl.getLsbD 12 = false ∧ ((x 0x2607).chan .c0).ctrl.getLsbD 15 = false ∧
      dmaPlain (x 0x2607) false .word ((x 0x2607).chan .c0).src = true ∧
      dmaPlain (x 0x2607) false .word ((x 0x2607).chan .c0).dst = true) ∧
    (((x 0xB656).chan .c0).ctrl.extractLsb' 6 2 ≠ 0#2 ∧ ((x 0xB656).chan .c0).ctrl.getLsbD 4 = true ∧
      (x 0xB656).drq .c0 = false ∧ ((x 0xB686).chan .c0).ctrl.extractLsb' 6 2 = 2#2) := by decide +kernel

/-- Every reason not to go. -/
theorem witness_DmaGoesInItsTurn :
    (start.chan .c0).ctrl.getLsbD 1 = false ∧ { start with intc := { start.intc with dhlt := true } }.intc.dhlt = true ∧
      { start with activity := .repeating .movs .byte, pfx := { Pfx.none with lock := true } }.locked = true ∧
      (start.setPin .hold true).granted = true ∧
      (let s := start |> channel0 0xB656 4
       (s.chan .c0).ctrl.extractLsb' 6 2 = 1#2 ∧
        (s.drq .c0 || ((s.chan .c0).ctrl.getLsbD 4 && decide ((s.chan .c0).tmrReqs ≠ 0))) = false) ∧
      (let s := start |> channel0 0xB606 4 |> wr 0xDA 0xB626
       s.dmaReady (Channel.c0).other = true ∧ (s.chan .c0).ctrl.getLsbD 5 = false ∧
        (s.chan (Channel.c0).other).ctrl.getLsbD 5 = true) ∧
      (let s := start |> channel0 0xB606 4 |> wr 0xDA 0xB606 |> fun s => { s with
        dma := { s.dma with ch0 := { s.dma.ch0 with ran := true }, ch1 := { s.dma.ch1 with ran := true } } }
       s.dmaReady (Channel.c0).other = true ∧
        (s.chan .c0).ctrl.getLsbD 5 = (s.chan (Channel.c0).other).ctrl.getLsbD 5 ∧ s.dma.ch0.ran = true ∧
        s.dma.ch1.ran = true ∧ s.dma.last = .c0) ∧
      (let s := start |> ivt
       s.undisturbed = true ∧ s.pfx.lock = false ∧ plainVector s 2 = true ∧ roomFor s 3 = true) := by decide +kernel

/-- Every reason to go: unsynchronized, the pin, a request of timer 2, the higher priority, the other's turn before. -/
theorem witness_DmaGoesInItsTurn_goes :
    let ready (s : State) : Bool := (s.chan .c0).ctrl.getLsbD 1 && !s.intc.dhlt && !s.locked && !s.granted
    let timed := (start |> channel0 0xB656 4).timerReached .t2
    (ready (start |> channel0 0xB606 4) = true ∧ ((start |> channel0 0xB606 4).chan .c0).ctrl.extractLsb' 6 2 = 0#2 ∧
      (start |> channel0 0xB606 4).dmaReady (Channel.c0).other = false) ∧
    (((start |> channel0 0xB646 4).setPin .drq0 true).drq .c0 = true) ∧
    (ready timed = true ∧ (timed.chan .c0).ctrl.getLsbD 4 = true ∧ (timed.chan .c0).tmrReqs ≠ 0) ∧
    (let s := start |> channel0 0xB626 4 |> wr 0xDA 0xB606
     ready s = true ∧ (s.chan .c0).ctrl.getLsbD 5 = true ∧ (s.chan (Channel.c0).other).ctrl.getLsbD 5 = false) ∧
    (let s := start |> channel0 0xB606 4 |> wr 0xDA 0xB606
     ready s = true ∧ s.dma.ch1.ran = false) ∧
    (let s := start |> channel0 0xB606 4 |> wr 0xDA 0xB606 |> fun s => { s with dma := { s.dma with last := .c1 } }
     ready s = true ∧ s.dma.last = (Channel.c0).other) := by decide +kernel

/-- A count of 2 against maxima of 3 and 4, and a maximum of 0, reached from FFFFH. -/
theorem witness_TimerCountAndMode :
    let t (count maxA : Word) : Timer := { Timer.reset with count := count, maxA := maxA }
    (t 2 3).count + 1 = (t 2 3).maxA ∧ (t 2 4).count + 1 ≠ (t 2 4).maxA ∧ (t 0xFFFF 0).count + 1 = (t 0xFFFF 0).maxA ∧
      (Timer.reset.writeMode .t0 0xC002).alt = true ∧ (Timer.reset.writeMode .t2 0xC002).alt = false ∧
      TimerId.t0 ≠ .t2 := by decide

/-- A slot that restarts, one that holds, one that counts, and one that reaches the maximum. -/
theorem witness_TimerCountAndMode_slot :
    let s (t : Timer) : State := start.setTimer .t0 t
    let t : Timer := { Timer.reset with en := true, maxA := 3, count := 1 }
    { start with agenda := [.world (.slot .t0)] }.agenda = .world (.slot .t0) :: [] ∧
      ({ t with rtg := true, edge := true }).restarts .t0 = true ∧
      ((s t).timers.get .t0).restarts .t0 = false ∧ t.counts .t0 false = false ∧ t.counts .t0 true = true ∧
      t.reaches = false ∧ ({ t with count := 2 }).reaches = true ∧
      ({ t with ext := true, edge := true }).counts .t0 false = true ∧
      ({ t with p := true }).counts .t0 true = false ∧ ({ t with p := true, tick := true }).counts .t0 true = true ∧
      ((s t).setPin .tmrIn0 true).pins.tmrIn0 = true := by decide +kernel

/-- Every range programmed, none overlapping; one line of each kind, its first and last address and the next. -/
theorem witness_ChipSelectOutputs :
    let c := (start |> wr 0xA2 0x0FF8 |> wr 0xA6 0x21F8 |> wr 0xA4 0x403F |> wr 0xA8 0x84F8).chip
    (c.umcs &&& 0xFFF8#16 = 0xFFF8#16 ∧ c.overlapped .upper = false ∧ c.ucs 0xFFC00 = some true) ∧
      (start.chip.lmcsOn = false ∧ start.chip.mmcsOn = false ∧ start.chip.pacsOn = false) ∧
      (c.lmcs &&& 0xFFF8#16 = 0x0FF8#16 ∧ c.lmcsOn = true ∧ c.overlapped .lower = false ∧ c.lcs 0x0FFFF = some true ∧
        c.lcs 0x10000 = some false) ∧
      (c.mpcs.extractLsb' 8 7 = 4#7 ∧ c.mmcsOn = true ∧ c.mpcsOn = true ∧ c.mmcs.toNat / 512 * 0x2000 = 0x20000 ∧
        c.overlapped .mid = false ∧ c.mcs 0 0x20000 = some true ∧ c.mcs 3 0x27FFF = some true ∧
        c.mcs 3 0x28000 = some false ∧ c.mcs 1 0x20000 = some false) ∧
      (c.pacsOn = true ∧ c.mpcs.getLsbD 7 = true ∧ c.mpcs.getLsbD 6 = true ∧ c.overlapped .periph = false ∧
        c.pcs 6 false (0x40000 + 7 * 128 - 1) = some true ∧ c.pcs 6 false (0x40000 + 7 * 128) = some false) := by
  decide +kernel

/-- 512K at 0; the peripheral block in I/O space with EX = 0; ranges that overlap. -/
theorem witness_ChipSelectOutputs_edges :
    (let c := (start |> wr 0xA6 0x01F8 |> wr 0xA8 0xC038).chip
     c.mpcs.extractLsb' 8 7 = 64#7 ∧ c.mmcs.toNat / 512 * 0x2000 = 0 ∧ c.overlapped .mid = false ∧
      c.mcs 3 0x7FFFF = some true) ∧
    (let c := (start |> wr 0xA4 0x0FFF |> wr 0xA8 0x8038).chip
     c.pacsOn = true ∧ c.mpcsOn = true ∧ c.mpcs.getLsbD 7 = false ∧ c.mpcs.getLsbD 6 = false ∧
      c.pacs.toNat < 0x1000 ∧ c.pcs 4 true (0xFC00 + 5 * 128 - 1) = some true) ∧
    (start |> wr 0xA6 0xFFF8 |> wr 0xA8 0x8138).chip.overlapped .upper = true := by decide +kernel
end Sys2Proof.Tests
end

section
/-! Reset: what a turn of the schedule does at the head of the agenda, what RES leaves in each register of Table 5,
and the settling of the statement about them. -/

namespace Sys2Proof.Proofs

open Sys2Proof.Machine

/-! ### The step that takes RES -/

theorem step_of_agenda_cons {s : State} {turn : Turn} {rest : List Turn} (h : s.agenda = turn :: rest) :
    step s = endedByRes (takeTurn turn (s.setAgenda rest)) := by
  simp only [step, machineStep, h]

theorem step_of_agenda_reset {s : State} {rest : List Turn} (h : s.agenda = .reset :: rest) :
    step s = .next (s.setAgenda rest).resetPulse := by
  rw [step_of_agenda_cons h]
  rfl

/-! ### What RES leaves -/

/-- Power-up is a pulse that finds the machine as it is at power-up: its INT pins are LOW, so RES arms them all. -/
theorem resetPulse_reset : State.reset.resetPulse = State.reset := rfl

@[simp] theorem resetPulse_flags (s : State) : s.resetPulse.flags = .reset := rfl

@[simp] theorem resetPulse_ip (s : State) : s.resetPulse.ip = 0 := rfl

@[simp] theorem resetPulse_segs (s : State) : s.resetPulse.segs = { es := 0, cs := 0xFFFF, ss := 0, ds := 0 } := rfl

@[simp] theorem resetPulse_reloc (s : State) : s.resetPulse.reloc = 0x20FF := rfl

@[simp] theorem resetPulse_chip (s : State) : s.resetPulse.chip = State.reset.chip := rfl

/-- FLAGS reads F002H: of its bits only the hardwired ones are 1. -/
theorem image_flagsReset : Flags.reset.image = 0xF002#16 := by decide

/-- The first fetch is 16 bytes below the top of memory, at FFFFH * 16 + 0 (R131). -/
theorem codeAddr_resetPulse (s : State) : s.resetPulse.codeAddr 0 = 0xFFFF0#20 := by
  simp only [State.codeAddr, resetPulse_segs, resetPulse_ip]
  decide

/-! ### The statement -/

/-- Power-up and the step of a pulse both end in a state that RES leaves. -/
theorem exists_eq_resetPulse {t : State}
    (h : t = State.reset ∨ ∃ s rest, s.agenda = .reset :: rest ∧ step s = .next t) :
    ∃ u : State, t = u.resetPulse := by
  obtain rfl | ⟨s, rest, hagenda, hstep⟩ := h
  · exact ⟨State.reset, resetPulse_reset.symm⟩
  · rw [step_of_agenda_reset hagenda] at hstep
    cases hstep
    exact ⟨s.setAgenda rest, rfl⟩

/-- Settles O7: each register of Table 5 after a pulse, whatever state the pulse found. -/
theorem resetValues : Obligations.ResetValues := by
  intro t h
  obtain ⟨u, rfl⟩ := exists_eq_resetPulse h
  simp only [resetPulse_flags, resetPulse_ip, resetPulse_segs, resetPulse_reloc, resetPulse_chip, image_flagsReset,
    codeAddr_resetPulse]
  decide

end Sys2Proof.Proofs
end

section
/-! Addresses: the sum `phys` forms, the segment in force under a prefix, where each shape of r/m operand lies, and the
settling of the statement about them. -/

namespace Sys2Proof.Proofs

open Sys2Proof.Machine

/-! ### Sums as numbers -/

/-- The segment's base fills the upper 16 of the 20 bits, so the shift loses nothing and only the sum can wrap (R131,
R132). -/
theorem toNat_phys (seg off : Word) : (phys seg off).toNat = (seg.toNat * 16 + off.toNat) % 2 ^ 20 := by
  have hbase : (seg.setWidth 20 <<< 4).toNat = seg.toNat * 16 := by
    rw [BitVec.toNat_shiftLeft, Nat.shiftLeft_eq, BitVec.toNat_setWidth]
    omega
  have hoff : (off.setWidth 20).toNat = off.toNat := by
    rw [BitVec.toNat_setWidth]
    omega
  rw [phys, BitVec.toNat_add, hbase, hoff]

theorem add_signExtend_eq_ofInt (x : Word) (d : Byte) :
    x + d.signExtend 16 = BitVec.ofInt 16 (x.toInt + d.toInt) := by
  rw [BitVec.ofInt_add, BitVec.ofInt_toInt]
  rfl

theorem add_eq_ofNat (x d : Word) : x + d = BitVec.ofNat 16 (x.toNat + d.toNat) := by
  rw [BitVec.ofNat_add, BitVec.ofNat_toNat, BitVec.ofNat_toNat, BitVec.setWidth_eq, BitVec.setWidth_eq]

/-! ### The segment in force -/

theorem segment_of_no_prefix {s : State} (h : s.pfx.seg = none) (d : SegReg) : s.segment d = s.segs.get d := by
  simp only [State.segment, State.getSeg, h, Option.getD_none]

theorem segment_of_prefix {s : State} {r : SegReg} (h : s.pfx.seg = some r) (d : SegReg) :
    s.segment d = s.segs.get r := by
  simp only [State.segment, State.getSeg, h, Option.getD_some]

/-! ### The shapes of an operand -/

theorem locate_reg (s : State) (r : Reg) : s.locate (.reg r) = .reg r := rfl

theorem locate_direct (s : State) (d : Word) : s.locate (.mem (.direct d)) = .mem (s.segment .ds) d := rfl

theorem locate_plain (s : State) (b : Base) :
    s.locate (.mem (.plain b)) = .mem (s.segment (baseSegment b)) (s.baseSum b) := rfl

theorem locate_disp8 (s : State) (b : Base) (d : Byte) :
    s.locate (.mem (.disp8 b d)) =
      .mem (s.segment (baseSegment b)) (BitVec.ofInt 16 ((s.baseSum b).toInt + d.toInt)) := by
  rw [← add_signExtend_eq_ofInt]
  rfl

theorem locate_disp16 (s : State) (b : Base) (d : Word) :
    s.locate (.mem (.disp16 b d)) =
      .mem (s.segment (baseSegment b)) (BitVec.ofNat 16 ((s.baseSum b).toNat + d.toNat)) := by
  rw [← add_eq_ofNat]
  rfl

/-! ### The table of base forms -/

/-- The r/m values with a base or an index, in the order of R176, each with its sum and its default segment (R177). -/
def baseTable (s : State) : List (Base × Word × Word) :=
  [.bxSi, .bxDi, .bpSi, .bpDi, .si, .di, .bp, .bx].map fun b => (b, s.baseSum b, s.segs.get (baseSegment b))

theorem mem_baseTable {s : State} {b : Base} {ea seg : Word} :
    (b, ea, seg) ∈ baseTable s ↔ ea = s.baseSum b ∧ seg = s.segs.get (baseSegment b) := by
  constructor
  · intro h
    obtain ⟨b', -, heq⟩ := List.mem_map.1 h
    cases heq
    exact ⟨rfl, rfl⟩
  · rintro ⟨rfl, rfl⟩
    exact List.mem_map.2 ⟨b, by cases b <;> decide, rfl⟩

/-! ### The statement -/

/-- Settles O10: the segment in force is settled once, by cases on the prefix; each base form then has its sum and its
default segment from the table, and each shape of displacement its offset from `locate`'s own lemma. -/
theorem operandAddresses : Obligations.OperandAddresses := by
  refine ⟨toNat_phys, fun s => ?_⟩
  intro g segOf
  have hseg (d : SegReg) : s.segment d = segOf (s.segs.get d) := by
    cases hprefix : s.pfx.seg with
    | none => simp only [segment_of_no_prefix hprefix, segOf, hprefix]
    | some r =>
      rw [segment_of_prefix hprefix]
      cases r <;> simp only [Segs.get, segOf, hprefix]
  refine ⟨fun d => ?_, fun b ea seg hrow => ?_, locate_reg s⟩
  · rw [locate_direct, hseg]
    rfl
  · obtain ⟨rfl, rfl⟩ := mem_baseTable.1 hrow
    rw [← hseg]
    exact ⟨locate_plain s b, locate_disp8 s b, locate_disp16 s b⟩

end Sys2Proof.Proofs
end

section
/-! The priority mask: what a write of the register leaves in it, how it bounds the level of an eligible source, and the
settling of the statement about the masks 4 and 7. -/

namespace Sys2Proof.Proofs

open Sys2Proof.Machine

/-- PRM is the low three bits of the word written (R105). -/
theorem writeReg_prioMask (s : State) (v : Word) :
    s.writeReg .prioMask v = .next { s with intc := { s.intc with prm := v.extractLsb' 0 3 } } := rfl

theorem prm_reset : State.reset.intc.prm = 7#3 := rfl

/-- Condition 3 of R493: an eligible source has a level no larger than the priority mask. -/
theorem pr_le_prm_of_eligible {s : State} {k : IntSource} (h : s.eligible k = true) :
    (s.intc.source k).pr ≤ s.intc.prm := by
  simp only [State.eligible, Bool.and_eq_true] at h
  obtain ⟨⟨⟨⟨-, -⟩, hlevel⟩, -⟩, -⟩ := h
  exact of_decide_eq_true hlevel

theorem not_eligible_of_prm_lt {s : State} {k : IntSource} (h : s.intc.prm < (s.intc.source k).pr) :
    s.eligible k = false :=
  Bool.eq_false_iff.2 fun he => BitVec.not_le.2 h (pr_le_prm_of_eligible he)

/-- Settles O49: the write leaves 4 in PRM, below every level of 5 or more; after reset PRM is 7, the largest number of
three bits. -/
theorem priorityMaskExample : Obligations.PriorityMaskExample := by
  refine ⟨fun s t k hwrite hlevel => ?_, fun s k hprm => ?_⟩
  · rw [writeReg_prioMask] at hwrite
    cases hwrite
    exact not_eligible_of_prm_lt (BitVec.lt_def.2 hlevel)
  · rw [hprm, prm_reset]
    exact Nat.le_of_lt_succ (s.intc.source k).pr.isLt

end Sys2Proof.Proofs
end

section
/-! What one instruction can do to the machine: every meaning is built from bus cycles, from moves inside the CPU that
any instruction may make, and from moves that only the instructions named for them make (R26, R37). A relation kept by
these three is kept by `exec`; the statement about the guarded registers and flags is one use of that, the invariant
another. -/

namespace Sys2Proof.Proofs

open Sys2Proof.Machine Sys2Proof.Safety

/-! ### Permissions -/

/-- The guarded registers and flags a piece of the machine may write. -/
structure Allowed where
  seg : SegReg → Bool
  tf : Bool
  ifl : Bool
  df : Bool

/-- The permissions of an instruction, as the statements name them (R26, R37). -/
def Allowed.of (i : Instr) : Allowed where
  seg q := if q = .cs then writesCs i else writesSegment i q
  tf := writesTf i
  ifl := writesIf i
  df := writesDf i

/-- Everything may be written: what an interrupt at a boundary needs. -/
def Allowed.all : Allowed where
  seg _ := true
  tf := true
  ifl := true
  df := true

/-- Flags `g` may replace `f`: a control flag differs only where that is permitted. -/
def Allowed.flags (p : Allowed) (f g : Flags) : Prop :=
  (p.tf = false → g.tf = f.tf) ∧ (p.ifl = false → g.ifl = f.ifl) ∧ (p.df = false → g.df = f.df)

theorem Allowed.flags_of_kept (p : Allowed) {f g : Flags} (tf : g.tf = f.tf := by rfl) (ifl : g.ifl = f.ifl := by rfl)
    (df : g.df = f.df := by rfl) : p.flags f g :=
  ⟨fun _ => tf, fun _ => ifl, fun _ => df⟩

/-- A relation that bus cycles keep, and the moves inside the CPU under the given permissions. -/
structure InstrRel (R : State → State → Prop) (p : Allowed) : Prop extends BusRel R where
  cpu : ∀ (s : State) (regs : Regs) (ip : Word) (stale : List StaleByte) (pfx : Pfx) (activity : Activity)
    (inhibit inhibitInt dhlt : Bool),
    R s { s with
      regs := regs, ip := ip, stale := stale, pfx := pfx, activity := activity, inhibit := inhibit
      inhibitInt := inhibitInt, intc := { s.intc with dhlt := dhlt } }
  setSeg : ∀ (s : State) (q : SegReg) (v : Word), p.seg q = true → R s (s.setSeg q v)
  setFlags : ∀ (s : State) (f : Flags), p.flags s.flags f → R s (s.setFlags f)

namespace InstrRel

variable {R : State → State → Prop} {p : Allowed} (B : InstrRel R p)

include B

/-! ### Moves inside the CPU -/

theorem setRegs (s : State) (g : Regs) : R s { s with regs := g } := B.cpu s g _ _ _ _ _ _ _

theorem setReg (s : State) (w : Width) (r : Reg) (v : BitVec w.bits) : R s (s.setReg w r v) := by
  cases w
  · exact B.setRegs s _
  · exact B.setRegs s _

theorem jump (s : State) (v : Word) : R s (s.jump v) := B.cpu s _ v [] _ _ _ _ _

theorem farJump (hcs : p.seg .cs = true) (s : State) (seg v : Word) : R s (s.farJump seg v) :=
  B.trans _ _ _ (B.setSeg s .cs seg hcs) (B.jump _ v)

theorem setActivity (s : State) (a : Activity) : R s { s with activity := a } := B.cpu s _ _ _ _ a _ _ _

theorem setPfx (s : State) (x : Pfx) : R s { s with pfx := x } := B.cpu s _ _ _ x _ _ _ _

theorem leaveInstruction (s : State) : R s s.leaveInstruction := B.cpu s _ _ _ .none .running _ _ _

theorem inhibited (s : State) : R s s.inhibited := B.cpu s _ _ _ _ _ true _ _

theorem setDhlt (s : State) (b : Bool) : R s { s with intc := { s.intc with dhlt := b } } := B.cpu s _ _ _ _ _ _ _ b

/-- Arithmetic flags may be set by any instruction (R37 guards the control flags alone). -/
theorem setArith (s : State) (f : Flags) (tf : f.tf = s.flags.tf := by rfl) (ifl : f.ifl = s.flags.ifl := by rfl)
    (df : f.df = s.flags.df := by rfl) : R s (s.setFlags f) :=
  B.setFlags s f (p.flags_of_kept tf ifl df)

theorem setArithDrawn (s : State) (f : Flags) (n : Nat) (tf : f.tf = s.flags.tf := by rfl)
    (ifl : f.ifl = s.flags.ifl := by rfl) (df : f.df = s.flags.df := by rfl) : R s ((s.setFlags f).drawn n) :=
  B.trans _ _ _ (B.setArith s f tf ifl df) (B.drawn _ n)

theorem shiftFlags {n : Nat} (s : State) (op : ShiftOp) (k : Nat) (x r : BitVec n) (c : Bool) :
    R s (s.shiftFlags op k x r c) := by
  refine B.setArithDrawn s _ 2 ?_ ?_ ?_ <;> cases op <;> rfl

/-! ### Operands and the stack -/

theorem writeLoc (w : Width) (l : Loc) (v : BitVec w.bits) (s : State) : After R s (writeLoc w l v s) := by
  cases l with
  | reg r => exact after_next (B.setReg s w r v)
  | mem seg off => exact B.writeSeg w seg off v s

theorem readRM (w : Width) (rm : RM) (s : State) : AfterValue R s (readRM w rm s) := B.readLoc w _ s

theorem push (v : Word) (s : State) : After R s (push v s) :=
  after_of B.trans (B.setRegs s _) (B.writeSeg .word _ _ v _)

theorem pop (s : State) : AfterValue R s (pop s) :=
  afterValue_seq B.trans (B.readSeg .word _ _ s) fun _ t => afterValue_next (B.setRegs t _)

/-- A read, then whatever the meaning does with the value. -/
theorem readThen {w : Width} {l : Loc} {s : State} {k : BitVec w.bits → State → Out}
    (hk : ∀ a t, After R t (k a t)) : After R s (seq (Machine.readLoc w l s) k) :=
  after_seq B.trans (B.readLoc w l s) hk

theorem popThen {s : State} {k : Word → State → Out} (hk : ∀ a t, After R t (k a t)) :
    After R s (seq (Machine.pop s) k) :=
  after_seq B.trans (B.pop s) hk

/-- A pop from a state that differs from the one before by a permitted move. -/
theorem popAfter {s t : State} {k : Word → State → Out} (ht : R s t) (hk : ∀ a u, After R u (k a u)) :
    After R s (seq (Machine.pop t) k) :=
  after_of B.trans ht (B.popThen hk)

theorem pushThen {v : Word} {s : State} {k : State → Out} (hk : ∀ t, After R t (k t)) :
    After R s (andThen (Machine.push v s) k) :=
  after_andThen B.trans (B.push v s) hk

/-! ### Interrupts -/

theorem saveContext (htf : p.tf = true) (hif : p.ifl = true) (ret : Word) (s : State) :
    After R s (saveContext ret s) := by
  have hmask (t : State) : R t t.maskTraps :=
    B.setFlags t _ ⟨by simp [htf], by simp [hif], fun _ => rfl⟩
  exact B.pushThen fun t => after_andThen B.trans (after_of B.trans (hmask t) (B.push _ _)) fun _ => B.push ret _

theorem enterHandler (hcs : p.seg .cs = true) (s : State) (seg off : Word) :
    R s (s.farJump seg off).leaveInstruction :=
  B.trans _ _ _ (B.farJump hcs s seg off) (B.leaveInstruction _)

theorem interrupt (hcs : p.seg .cs = true) (htf : p.tf = true) (hif : p.ifl = true) (n : Byte) (ret : Word)
    (s : State) : After R s (interrupt n ret s) := by
  unfold Machine.interrupt
  split
  · exact after_of B.trans (B.setAgenda s _) (after_andThen B.trans (B.saveContext htf hif ret _) fun t =>
      after_seq B.trans (B.readVector n t) fun v u => after_next (B.enterHandler hcs u _ _))
  · exact after_seq B.trans (B.readVector n s) fun v t => after_andThen B.trans (B.saveContext htf hif ret t) fun u =>
      after_next (B.enterHandler hcs u _ _)

theorem returnFromInterrupt (hcs : p.seg .cs = true) (hflags : ∀ f g, p.flags f g) (s : State) :
    After R s (returnFromInterrupt s) :=
  B.popThen fun ip _ => B.popThen fun cs _ => B.popThen fun v x => after_next
    (B.trans _ _ _ (B.setFlags x (Flags.ofImage v) (hflags _ _))
      (B.trans _ _ _ (B.setDhlt _ false) (B.farJump hcs _ cs ip)))

/-! ### The shared operations of the meanings -/

theorem withRmReg {op : (w : Width) → Loc → BitVec w.bits → BitVec w.bits → State → Out}
    (hop : ∀ w l a b s, After R s (op w l a b s)) (d : Dir) (w : Width) (rm : RM) (reg : Reg) (s : State) :
    After R s (withRmReg op d w rm reg s) :=
  B.readThen fun _ _ => by cases d <;> exact hop _ _ _ _ _

theorem withRmImm {op : (w : Width) → Loc → BitVec w.bits → BitVec w.bits → State → Out}
    (hop : ∀ w l a b s, After R s (op w l a b s)) (w : Width) (rm : RM) (v : BitVec w.bits) (s : State) :
    After R s (withRmImm op w rm v s) :=
  B.readThen fun _ _ => hop _ _ _ _ _

omit B in
theorem withAccImm {op : (w : Width) → Loc → BitVec w.bits → BitVec w.bits → State → Out}
    (hop : ∀ w l a b s, After R s (op w l a b s)) (imm : Imm) (s : State) : After R s (withAccImm op imm s) :=
  hop _ _ _ _ _

theorem addTo (c : Bool) (w : Width) (l : Loc) (a b : BitVec w.bits) (s : State) : After R s (addTo c w l a b s) :=
  after_of B.trans (B.setArith s _) (B.writeLoc w l _ _)

theorem subTo (c : Bool) (w : Width) (l : Loc) (a b : BitVec w.bits) (s : State) : After R s (subTo c w l a b s) :=
  after_of B.trans (B.setArith s _) (B.writeLoc w l _ _)

theorem opAdd (w : Width) (l : Loc) (a b : BitVec w.bits) (s : State) : After R s (opAdd w l a b s) :=
  B.addTo _ w l a b s

theorem opAdc (w : Width) (l : Loc) (a b : BitVec w.bits) (s : State) : After R s (opAdc w l a b s) :=
  B.addTo _ w l a b s

theorem opSub (w : Width) (l : Loc) (a b : BitVec w.bits) (s : State) : After R s (opSub w l a b s) :=
  B.subTo _ w l a b s

theorem opSbb (w : Width) (l : Loc) (a b : BitVec w.bits) (s : State) : After R s (opSbb w l a b s) :=
  B.subTo _ w l a b s

theorem opCmp (w : Width) (l : Loc) (a b : BitVec w.bits) (s : State) : After R s (opCmp w l a b s) :=
  after_next (B.setArith s _)

theorem logicTo (w : Width) (l : Loc) (r : BitVec w.bits) (s : State) : After R s (logicTo w l r s) :=
  after_of B.trans (B.setArithDrawn s _ 1) (B.writeLoc w l r _)

theorem opAnd (w : Width) (l : Loc) (a b : BitVec w.bits) (s : State) : After R s (opAnd w l a b s) :=
  B.logicTo w l _ s

theorem opOr (w : Width) (l : Loc) (a b : BitVec w.bits) (s : State) : After R s (opOr w l a b s) :=
  B.logicTo w l _ s

theorem opXor (w : Width) (l : Loc) (a b : BitVec w.bits) (s : State) : After R s (opXor w l a b s) :=
  B.logicTo w l _ s

theorem opTest (w : Width) (l : Loc) (a b : BitVec w.bits) (s : State) : After R s (opTest w l a b s) :=
  after_next (B.setArithDrawn s _ 1)

theorem increment (w : Width) (l : Loc) (s : State) : After R s (increment w l s) :=
  B.readThen fun _ t => after_of B.trans (B.setArith t _) (B.writeLoc w l _ _)

theorem decrement (w : Width) (l : Loc) (s : State) : After R s (decrement w l s) :=
  B.readThen fun _ t => after_of B.trans (B.setArith t _) (B.writeLoc w l _ _)

theorem shiftRm (op : ShiftOp) (w : Width) (rm : RM) (count : Byte) (s : State) :
    After R s (shiftRm op w rm count s) :=
  B.readThen fun x t => by
    dsimp only
    split
    · exact after_next (B.refl t)
    · exact after_of B.trans (B.shiftFlags t _ _ _ _ _) (B.writeLoc w _ _ _)

theorem setDxAx (s : State) (q : BitVec 32) : R s (s.setDxAx q) := B.trans _ _ _ (B.setReg s _ _ _) (B.setReg _ _ _ _)

theorem multiply (w : Width) (v : BitVec w.bits) (s : State) : R s (multiply w v s) := by
  cases w
  · exact B.trans _ _ _ (B.setReg s .word .ax_al _) (B.setArithDrawn _ _ 4)
  · exact B.trans _ _ _ (B.setDxAx s _) (B.setArithDrawn _ _ 4)

theorem multiplySigned (w : Width) (v : BitVec w.bits) (s : State) : R s (multiplySigned w v s) := by
  cases w
  · exact B.trans _ _ _ (B.setReg s .word .ax_al _) (B.setArithDrawn _ _ 4)
  · exact B.trans _ _ _ (B.setDxAx s _) (B.setArithDrawn _ _ 4)

theorem multiplyImm (reg : Reg) (rm : RM) (imm : Word) (s : State) : After R s (multiplyImm reg rm imm s) :=
  B.readThen fun v t => after_next (B.trans _ _ _ (B.setReg t .word reg _) (B.setArithDrawn _ _ 4))

theorem divFlags (s : State) : R s s.divFlags := B.setArithDrawn s _ 6

theorem divideError (hcs : p.seg .cs = true) (htf : p.tf = true) (hif : p.ifl = true) (s : State) :
    After R s (divideError s) :=
  after_andThen B.trans (B.interrupt hcs htf hif 0 s.ip s) fun t => after_next (B.divFlags t)

theorem setQuotient (s : State) (w : Width) (q r : BitVec w.bits) : R s (s.setQuotient w q r) := by
  cases w
  · exact B.setReg s .word .ax_al _
  · exact B.trans _ _ _ (B.setReg s .word .ax_al _) (B.setReg _ .word .dx_dl _)

theorem divide (hcs : p.seg .cs = true) (htf : p.tf = true) (hif : p.ifl = true) (w : Width) (v : BitVec w.bits)
    (s : State) : After R s (divide w v s) := by
  unfold Machine.divide
  dsimp only
  split
  · exact B.divideError hcs htf hif s
  · exact after_next (B.trans _ _ _ (B.setQuotient s w _ _) (B.divFlags _))

theorem divideSigned (hcs : p.seg .cs = true) (htf : p.tf = true) (hif : p.ifl = true) (w : Width) (v : BitVec w.bits)
    (s : State) : After R s (divideSigned w v s) := by
  unfold Machine.divideSigned
  dsimp only
  split
  · exact B.divideError hcs htf hif s
  · exact after_next (B.trans _ _ _ (B.setQuotient s w _ _) (B.divFlags _))

theorem pushRegister (r : Reg) (s : State) : After R s (pushRegister r s) := B.push _ s

theorem popSegment {q : SegReg} (hq : p.seg q = true) (s : State) : After R s (popSegment q s) :=
  B.popThen fun v t => after_next (B.trans _ _ _ (B.setSeg t q v hq) (B.inhibited _))

theorem loadPointer {q : SegReg} (hq : p.seg q = true) (reg : Reg) (mem : MemRef) (s : State) :
    After R s (loadPointer q reg mem s) :=
  after_seq B.trans (B.readPointer _ _ s) fun x t => after_next
    (B.trans _ _ _ (B.setReg t .word reg x.1) (B.trans _ _ _ (B.setSeg _ q x.2 hq) (B.inhibited _)))

theorem callFarTo (hcs : p.seg .cs = true) (seg off : Word) (s : State) : After R s (callFarTo seg off s) :=
  B.pushThen fun _ => B.pushThen fun u => after_next (B.farJump hcs u seg off)

theorem jumpIf (cond : Bool) (disp : Byte) (s : State) : After R s (jumpIf cond disp s) := by
  refine after_next ?_
  split
  · exact B.jump s _
  · exact B.refl s

theorem copyFrames (k : Nat) (s : State) : After R s (copyFrames k s) := by
  induction k generalizing s with
  | zero => exact after_next (B.refl s)
  | succ k ih =>
    exact after_seq B.trans (afterValue_of B.trans (B.setRegs s _) (B.readSeg .word _ _ _)) fun _ _ => B.pushThen ih

theorem pushDisplay (level : Nat) (frame : Word) (s : State) : After R s (pushDisplay level frame s) := by
  cases level with
  | zero => exact after_next (B.refl s)
  | succ k => exact after_andThen B.trans (B.copyFrames k s) fun t => B.push frame t

theorem overrideSegment (r : SegReg) (s : State) : After R s (overrideSegment r s) := by
  unfold Machine.overrideSegment
  split
  · exact after_refused _
  · exact after_next (B.setPfx s _)

/-! ### String elements -/

theorem stepSi (s : State) (w : Width) : R s (s.stepSi w) := B.setRegs s _

theorem stepDi (s : State) (w : Width) : R s (s.stepDi w) := B.setRegs s _

theorem readSource (w : Width) (s : State) : AfterValue R s (readSource w s) := B.readSeg w _ _ s

theorem readDest (w : Width) (s : State) : AfterValue R s (readDest w s) := B.readSeg w _ _ s

theorem writeDest (w : Width) (v : BitVec w.bits) (s : State) : After R s (writeDest w v s) := B.writeSeg w _ _ v s

theorem movsElement (w : Width) (s : State) : After R s (movsElement w s) :=
  after_seq B.trans (B.readSource w s) fun v t => after_andThen B.trans (B.writeDest w v t) fun u =>
    after_next (B.trans _ _ _ (B.stepSi u w) (B.stepDi _ w))

theorem cmpsElement (w : Width) (s : State) : After R s (cmpsElement w s) :=
  after_seq B.trans (B.readSource w s) fun a t => after_seq B.trans (B.readDest w t) fun b u =>
    after_next (B.trans _ _ _ (B.setArith u _) (B.trans _ _ _ (B.stepSi _ w) (B.stepDi _ w)))

theorem scasElement (w : Width) (s : State) : After R s (scasElement w s) :=
  after_seq B.trans (B.readDest w s) fun b t => after_next (B.trans _ _ _ (B.setArith t _) (B.stepDi _ w))

theorem lodsElement (w : Width) (s : State) : After R s (lodsElement w s) :=
  after_seq B.trans (B.readSource w s) fun v t => after_next (B.trans _ _ _ (B.setReg t w _ v) (B.stepSi _ w))

theorem stosElement (w : Width) (s : State) : After R s (stosElement w s) :=
  after_andThen B.trans (B.writeDest w _ s) fun t => after_next (B.stepDi t w)

theorem insElement (w : Width) (s : State) : After R s (insElement w s) :=
  after_seq B.trans (B.ioRead w _ s) fun v t => after_andThen B.trans (B.writeDest w v t) fun u =>
    after_next (B.stepDi u w)

theorem outsElement (w : Width) (s : State) : After R s (outsElement w s) :=
  after_seq B.trans (B.readSource w s) fun v t => after_andThen B.trans (B.ioWrite w _ v t) fun u =>
    after_next (B.stepSi u w)

theorem repeated (op : StringOp) (w : Width) {element : Width → State → Out} (he : ∀ w s, After R s (element w s))
    (s : State) : After R s (repeated op w element s) := by
  unfold Machine.repeated
  split
  · exact he w s
  · split
    · exact after_next (B.setActivity s _)
    · exact after_andThen B.trans (he w s) fun t =>
        after_next (B.trans _ _ _ (B.setRegs t _) (B.setActivity _ _))

end InstrRel

end Sys2Proof.Proofs
end

section
/-! The rule of shared operations applied to every instruction, and the two statements over all of them: the guarded
registers and flags, and the invariant of a step. -/

namespace Sys2Proof.Proofs

open Sys2Proof.Machine Sys2Proof.Safety

/-- Every instruction keeps what bus cycles keep and the moves permitted to it keep: one line per meaning, from the
rule of the shared operation it is made of. -/
theorem InstrRel.exec {R : State → State → Prop} {i : Instr} (B : InstrRel R (Allowed.of i)) (s : State) :
    After R s (exec i s) := by
  cases i with
  -- data transfer
  | movRmReg w rm reg => exact B.writeLoc w _ _ s
  | movRegRm w reg rm => exact B.readThen fun v t => after_next (B.setReg t w reg v)
  | movRmImm rm imm => exact B.writeLoc _ _ _ s
  | movReg8Imm reg imm => exact after_next (B.setReg s .byte reg imm)
  | movReg16Imm reg imm => exact after_next (B.setReg s .word reg imm)
  | movAccMem w addr => exact after_seq B.trans (B.readSeg w _ _ s) fun v t => after_next (B.setReg t w _ v)
  | movMemAcc w addr => exact B.writeSeg w _ _ _ s
  | movSregRm q rm =>
    show After R s (execMovSregRm q rm s)
    unfold execMovSregRm
    split
    · exact after_refused _
    · rename_i hq
      have hallowed : (Allowed.of (.movSregRm q rm)).seg q = true := by
        simp only [Allowed.of, if_neg hq, writesSegment, decide_true]
      exact B.readThen fun v t => after_next (B.trans _ _ _ (B.setSeg t q v hallowed) (B.inhibited _))
  | movRmSreg rm q => exact B.writeLoc .word _ _ s
  | pushRm rm =>
    cases rm with
    | reg r => exact B.pushRegister r s
    | mem m => exact B.readThen fun v t => B.push v t
  | pushReg r => exact B.pushRegister r s
  | pushEs | pushCs | pushSs | pushDs | pushImm16 _ | pushImm8 _ | pushf => exact B.push _ s
  | pusha =>
    exact B.pushThen fun _ => B.pushThen fun _ => B.pushThen fun _ => B.pushThen fun _ => B.pushThen fun _ =>
      B.pushThen fun _ => B.pushThen fun _ => B.push _ _
  | popRm rm => exact B.popThen fun v t => B.writeLoc .word _ v t
  | popReg r => exact B.popThen fun v t => after_next (B.setReg t .word r v)
  | popEs | popSs | popDs => exact B.popSegment rfl s
  | popa =>
    exact B.popThen fun _ _ => B.popAfter (B.setRegs _ _) fun _ _ => B.popAfter (B.setRegs _ _) fun _ _ =>
      B.popAfter (B.setRegs _ _) fun _ _ => B.popThen fun _ _ => B.popAfter (B.setReg _ .word .bx_bl _) fun _ _ =>
      B.popAfter (B.setReg _ .word .dx_dl _) fun _ _ => B.popAfter (B.setRegs _ _) fun v t =>
      after_next (B.setReg t .word .ax_al v)
  | xchgRmReg w rm reg =>
    exact B.readThen fun a t => after_andThen B.trans (B.writeLoc w _ _ t) fun u => after_next (B.setReg u w reg a)
  | nop => exact after_next (B.refl s)
  | xchgAxReg reg => exact after_next (B.trans _ _ _ (B.setReg s .word .ax_al _) (B.setReg _ .word reg _))
  | inAccPort w _ | inAccDx w => exact after_seq B.trans (B.ioRead w _ s) fun v t => after_next (B.setReg t w _ v)
  | outPortAcc w _ | outDxAcc w => exact B.ioWrite w _ _ s
  | xlat => exact after_seq B.trans (B.readSeg .byte _ _ s) fun v t => after_next (B.setReg t .byte _ v)
  | lea reg mem => exact after_next (B.setReg s .word reg _)
  | lds reg mem | les reg mem => exact B.loadPointer rfl reg mem s
  | lahf => exact after_next (B.setReg s .byte _ _)
  | sahf => exact after_next (B.setArith s _)
  | popf =>
    exact B.popThen fun v t => after_next
      (B.setFlags t _ ⟨fun h => (nomatch h), fun h => (nomatch h), fun h => (nomatch h)⟩)
  -- arithmetic
  | addRmReg d w rm reg => exact B.withRmReg B.opAdd d w rm reg s
  | adcRmReg d w rm reg => exact B.withRmReg B.opAdc d w rm reg s
  | subRmReg d w rm reg => exact B.withRmReg B.opSub d w rm reg s
  | sbbRmReg d w rm reg => exact B.withRmReg B.opSbb d w rm reg s
  | cmpRmReg d w rm reg => exact B.withRmReg B.opCmp d w rm reg s
  | addRmImm rm _ | addRm8Imm8 rm _ | addRm16Imm8 rm _ => exact B.withRmImm B.opAdd _ rm _ s
  | adcRmImm rm _ | adcRm8Imm8 rm _ | adcRm16Imm8 rm _ => exact B.withRmImm B.opAdc _ rm _ s
  | subRmImm rm _ | subRm8Imm8 rm _ | subRm16Imm8 rm _ => exact B.withRmImm B.opSub _ rm _ s
  | sbbRmImm rm _ | sbbRm8Imm8 rm _ | sbbRm16Imm8 rm _ => exact B.withRmImm B.opSbb _ rm _ s
  | cmpRmImm rm _ | cmpRm8Imm8 rm _ | cmpRm16Imm8 rm _ => exact B.withRmImm B.opCmp _ rm _ s
  | addAccImm imm => exact withAccImm B.opAdd imm s
  | adcAccImm imm => exact withAccImm B.opAdc imm s
  | subAccImm imm => exact withAccImm B.opSub imm s
  | sbbAccImm imm => exact withAccImm B.opSbb imm s
  | cmpAccImm imm => exact withAccImm B.opCmp imm s
  | incRm w rm => exact B.increment w _ s
  | incReg reg => exact B.increment .word (.reg reg) s
  | decRm w rm => exact B.decrement w _ s
  | decReg reg => exact B.decrement .word (.reg reg) s
  | negRm w rm => exact B.readThen fun a t => B.subTo false w _ 0 a t
  | mulRm w rm => exact B.readThen fun v t => after_next (B.multiply w v t)
  | imulRm w rm => exact B.readThen fun v t => after_next (B.multiplySigned w v t)
  | imulRegRmImm16 reg rm _ | imulRegRmImm8 reg rm _ => exact B.multiplyImm reg rm _ s
  | divRm w rm => exact B.readThen fun v t => B.divide rfl rfl rfl w v t
  | idivRm w rm => exact B.readThen fun v t => B.divideSigned rfl rfl rfl w v t
  | aaa | aas => exact after_next (B.trans _ _ _ (B.setReg s .word .ax_al _) (B.setArithDrawn _ _ 4))
  | daa | das => exact after_next (B.trans _ _ _ (B.setReg s .byte .ax_al _) (B.setArithDrawn _ _ 1))
  | aam | aad => exact after_next (B.trans _ _ _ (B.setReg s .word .ax_al _) (B.setArithDrawn _ _ 3))
  | cbw | cwd => exact after_next (B.setReg s .word _ _)
  -- logic and shifts
  | andRmReg d w rm reg => exact B.withRmReg B.opAnd d w rm reg s
  | orRmReg d w rm reg => exact B.withRmReg B.opOr d w rm reg s
  | xorRmReg d w rm reg => exact B.withRmReg B.opXor d w rm reg s
  | andRmImm rm _ => exact B.withRmImm B.opAnd _ rm _ s
  | orRmImm rm _ => exact B.withRmImm B.opOr _ rm _ s
  | xorRmImm rm _ => exact B.withRmImm B.opXor _ rm _ s
  | andAccImm imm => exact withAccImm B.opAnd imm s
  | orAccImm imm => exact withAccImm B.opOr imm s
  | xorAccImm imm => exact withAccImm B.opXor imm s
  | testAccImm imm => exact withAccImm B.opTest imm s
  | testRmReg w rm reg => exact B.withRmReg B.opTest .toRm w rm reg s
  | testRmImm rm _ => exact B.withRmImm B.opTest _ rm _ s
  | notRm w rm => exact B.readThen fun a t => B.writeLoc w _ _ t
  | rolRm1 w rm | rolRmCl w rm | rolRmImm w rm _ | rorRm1 w rm | rorRmCl w rm | rorRmImm w rm _
  | rclRm1 w rm | rclRmCl w rm | rclRmImm w rm _ | rcrRm1 w rm | rcrRmCl w rm | rcrRmImm w rm _
  | shlRm1 w rm | shlRmCl w rm | shlRmImm w rm _ | shrRm1 w rm | shrRmCl w rm | shrRmImm w rm _
  | sarRm1 w rm | sarRmCl w rm | sarRmImm w rm _ => exact B.shiftRm _ w rm _ s
  -- strings
  | movs w => exact B.repeated .movs w B.movsElement s
  | cmps w => exact B.repeated .cmps w B.cmpsElement s
  | scas w => exact B.repeated .scas w B.scasElement s
  | lods w => exact B.repeated .lods w B.lodsElement s
  | stos w => exact B.repeated .stos w B.stosElement s
  | ins w => exact B.repeated .ins w B.insElement s
  | outs w => exact B.repeated .outs w B.outsElement s
  -- control transfer
  | callNear d => exact B.pushThen fun t => after_next (B.jump t _)
  | callNearRm rm => exact B.readThen fun a _ => B.pushThen fun u => after_next (B.jump u a)
  | callFar off seg => exact B.callFarTo rfl seg off s
  | callFarMem mem => exact after_seq B.trans (B.readPointer _ _ s) fun a t => B.callFarTo rfl a.2 a.1 t
  | jmpShort d => exact after_next (B.jump s _)
  | jmpNear d => exact after_next (B.jump s _)
  | jmpNearRm rm => exact B.readThen fun a t => after_next (B.jump t a)
  | jmpFar off seg => exact after_next (B.farJump rfl s seg off)
  | jmpFarMem mem => exact after_seq B.trans (B.readPointer _ _ s) fun a t => after_next (B.farJump rfl t a.2 a.1)
  | retNear => exact B.popThen fun a t => after_next (B.jump t a)
  | retNearImm k => exact B.popThen fun a t => after_next (B.trans _ _ _ (B.setRegs t _) (B.jump _ a))
  | retFar => exact B.popThen fun a _ => B.popThen fun c u => after_next (B.farJump rfl u c a)
  | retFarImm k =>
    exact B.popThen fun a _ => B.popThen fun c u => after_next (B.trans _ _ _ (B.setRegs u _) (B.farJump rfl _ c a))
  | jo d | jno d | jb d | jnb d | je d | jne d | jbe d | jnbe d | js d | jns d | jp d | jnp d | jl d | jnl d | jle d
  | jnle d | jcxz d => exact B.jumpIf _ d s
  | loop d | loopz d | loopnz d => exact after_of B.trans (B.setRegs s _) (B.jumpIf _ d s.countDown)
  | intType n => exact B.interrupt rfl rfl rfl n _ s
  | int3 => exact B.interrupt rfl rfl rfl 3 _ s
  | into =>
    show After R s (execInto s)
    unfold execInto
    split
    · exact B.interrupt rfl rfl rfl 4 _ s
    · exact after_next (B.refl s)
  | iret =>
    exact B.returnFromInterrupt rfl (fun _ _ => ⟨fun h => (nomatch h), fun h => (nomatch h), fun h => (nomatch h)⟩) s
  -- high level
  | enter size level =>
    exact B.pushThen fun t => after_andThen B.trans (B.pushDisplay _ _ t) fun u => after_next (B.setRegs u _)
  | leave => exact B.popAfter (B.setRegs s _) fun v t => after_next (B.setRegs t _)
  | bound reg mem =>
    refine after_seq B.trans (B.readSeg .word _ _ s) fun lower t =>
      after_seq B.trans (B.readSeg .word _ _ t) fun upper u => ?_
    split
    · exact B.interrupt rfl rfl rfl 5 _ u
    · exact after_next (B.refl u)
  -- processor control
  | clc | stc | cmc => exact after_next (B.setArith s _)
  | cld | std => exact after_next (B.setFlags s _ ⟨fun _ => rfl, fun _ => rfl, fun h => (nomatch h)⟩)
  | cli => exact after_next (B.setFlags s _ ⟨fun _ => rfl, fun h => (nomatch h), fun _ => rfl⟩)
  | sti =>
    have hif : R s (s.setFlags { s.flags with ifl := true }) :=
      B.setFlags s _ ⟨fun _ => rfl, fun h => (nomatch h), fun _ => rfl⟩
    exact after_next (B.trans _ _ _ hif (B.cpu _ _ _ _ _ _ _ _ _))
  | hlt | wait => exact after_next (B.setActivity s _)
  | esc ttt lll rm =>
    show After R s (execEsc ttt lll rm s)
    unfold execEsc
    split
    · exact B.interrupt rfl rfl rfl 7 _ s
    · split
      · exact after_next (B.refl s)
      · exact B.readThen fun _ t => after_next (B.refl t)
  | segEs | segCs | segSs | segDs => exact B.overrideSegment _ s
  | lock =>
    show After R s (execLock s)
    unfold execLock
    split
    · exact after_refused _
    · exact after_next (B.setPfx s _)
  | rep z =>
    show After R s (execRep z s)
    unfold execRep
    split
    · exact after_refused _
    · exact after_next (B.setPfx s _)

/-! ### The guarded registers and flags -/

/-- What is not permitted to `p` is the same in both states. -/
structure Guarded (p : Allowed) (s t : State) : Prop where
  seg : ∀ q, p.seg q = false → t.getSeg q = s.getSeg q
  flags : p.flags s.flags t.flags

theorem Allowed.flags_trans {p : Allowed} {f g h : Flags} (hfg : p.flags f g) (hgh : p.flags g h) : p.flags f h :=
  ⟨fun hp => (hgh.1 hp).trans (hfg.1 hp), fun hp => (hgh.2.1 hp).trans (hfg.2.1 hp),
    fun hp => (hgh.2.2 hp).trans (hfg.2.2 hp)⟩

theorem guarded_of_same (p : Allowed) {s t : State} (segs : t.segs = s.segs := by rfl)
    (flags : t.flags = s.flags := by rfl) : Guarded p s t where
  seg q _ := by rw [State.getSeg, State.getSeg, segs]
  flags := by rw [flags]; exact p.flags_of_kept

theorem guarded_of_sameCpu (p : Allowed) {s t : State} (h : SameCpu s t) : Guarded p s t :=
  guarded_of_same p h.segs h.flags

theorem Guarded.trans {p : Allowed} {s t u : State} (h : Guarded p s t) (g : Guarded p t u) : Guarded p s u where
  seg q hq := (g.seg q hq).trans (h.seg q hq)
  flags := Allowed.flags_trans h.flags g.flags

theorem guarded_setSeg {p : Allowed} (s : State) {q : SegReg} (v : Word) (hq : p.seg q = true) :
    Guarded p s (s.setSeg q v) where
  seg r hr := Segs.get_set_ne s.segs v fun e => by simp [← e, hr] at hq
  flags := p.flags_of_kept

theorem instrRel_guarded (p : Allowed) : InstrRel (Guarded p) p where
  refl _ := guarded_of_same p
  trans _ _ _ := Guarded.trans
  storeByte _ _ _ := guarded_of_same p
  setAgenda _ _ := guarded_of_same p
  drawn _ _ := guarded_of_same p
  logPort _ _ _ _ := guarded_of_same p
  logMem _ _ _ := guarded_of_same p
  world s w := guarded_of_sameCpu p (world_sameCpu s w)
  readReg s r := guarded_of_sameCpu p (readReg_sameCpu s r)
  writeReg s r v t ht := guarded_of_sameCpu p (writeReg_sameCpu s r v t ht)
  dmaDone s c v := guarded_of_sameCpu p (busRel_sameCpu.dmaDone s c v)
  cpu _ _ _ _ _ _ _ _ _ := guarded_of_same p
  setSeg s _ v hq := guarded_setSeg s v hq
  setFlags _ _ hf := ⟨fun _ _ => rfl, hf⟩

/-- Settles O45: each register and flag by the permission of that instruction. -/
theorem segmentsAndControlFlagsGuarded : Obligations.SegmentsAndControlFlagsGuarded := by
  intro s t i hexec
  obtain ⟨hseg, htf, hif, hdf⟩ := (instrRel_guarded (Allowed.of i)).exec s t (.inl ⟨t, hexec, rfl⟩)
  refine ⟨hseg .cs, fun q hq hw => hseg q ?_, htf, hif, hdf⟩
  simp only [Allowed.of, if_neg hq, hw]

/-! ### The invariant -/

theorem instrRel_inv (p : Allowed) : InstrRel KeepsInv p where
  toBusRel := busRel_inv
  cpu _ _ _ _ _ _ _ _ _ h := inv_congr h rfl rfl rfl rfl rfl rfl rfl rfl rfl rfl rfl
  setSeg _ _ _ _ h := inv_same h
  setFlags _ _ _ h := inv_same h

theorem exec_keepsInv (i : Instr) (s : State) : After KeepsInv s (exec i s) := (instrRel_inv _).exec s

theorem takeInterrupt_keepsInv (n : Byte) (s : State) : After KeepsInv s (takeInterrupt n s) :=
  after_of busRel_inv.trans ((instrRel_inv .all).leaveInstruction s)
    ((instrRel_inv .all).interrupt rfl rfl rfl n _ _)

theorem takeNmi_keepsInv (s : State) : After KeepsInv s (takeNmi s) := by
  unfold takeNmi
  refine after_of busRel_inv.trans (fun h => ?_) (takeInterrupt_keepsInv 2 _)
  exact inv_congr h rfl rfl rfl rfl rfl rfl rfl rfl rfl rfl rfl

theorem acknowledgeMaster_keepsInv (s : State) : After KeepsInv s (acknowledgeMaster s) := by
  unfold acknowledgeMaster
  split
  · rename_i k hk
    refine after_of busRel_inv.trans (fun h => ?_) (takeInterrupt_keepsInv _ _)
    have hcycles : Inv (s.intaCycles k) := by
      unfold State.intaCycles
      split
      · exact inv_same h
      · exact h
    have hrequest : (s.intaCycles k).intRequest k = true := by
      rw [← intRequest_of_presented hk]
      unfold State.intaCycles
      split <;> rfl
    exact inv_acknowledged hcycles hrequest
  · exact after_next (busRel_inv.refl s)

theorem rmxAcknowledged_kept (c : Intc) (k : RmxSource) :
    (c.rmxAcknowledged k).ivr = c.ivr ∧ (c.rmxAcknowledged k).armed0 = c.armed0 ∧
      (c.rmxAcknowledged k).armed1 = c.armed1 ∧ (c.rmxAcknowledged k).armed2 = c.armed2 ∧
      (c.rmxAcknowledged k).armed3 = c.armed3 := by
  cases k <;> exact ⟨rfl, rfl, rfl, rfl, rfl⟩

theorem acknowledgeRmx_keepsInv (s : State) : After KeepsInv s (acknowledgeRmx s) := by
  unfold acknowledgeRmx
  dsimp only
  split
  · split
    · split
      · rename_i k _
        obtain ⟨hivr, h0, h1, h2, h3⟩ := rmxAcknowledged_kept s.intc k
        refine after_of busRel_inv.trans (fun h => ?_) (takeInterrupt_keepsInv _ _)
        exact inv_congr h rfl rfl rfl rfl rfl hivr rfl h0 h1 h2 h3
      · exact after_fault (by simp)
    · exact after_fault (by simp)
  · refine after_of busRel_inv.trans (fun h => ?_) (takeInterrupt_keepsInv _ _)
    exact inv_same h

theorem takeHardware_keepsInv (hold : Bool) (s : State) : After KeepsInv s (takeHardware hold s) := by
  unfold takeHardware takeMaskable
  split
  · exact takeNmi_keepsInv s
  · split
    · split
      · exact acknowledgeRmx_keepsInv s
      · exact acknowledgeMaster_keepsInv s
    · exact after_next (busRel_inv.refl s)

theorem awaitBus_keepsInv (s : State) (t wait : Bool) : KeepsInv s (s.awaitBus t wait) := by
  intro h
  unfold State.awaitBus
  dsimp only
  split <;> exact inv_same h

theorem boundary_keepsInv (t wait : Bool) (s : State) : After KeepsInv s (boundary t wait s) := by
  have hclear : KeepsInv s { s with inhibitInt := false } := fun h => inv_same h
  unfold boundary
  dsimp only
  split
  · exact after_next (awaitBus_keepsInv s t wait)
  · split
    · exact after_next fun h => inv_same h
    · refine after_of busRel_inv.trans hclear (after_andThen busRel_inv.trans (takeHardware_keepsInv _ _) fun u => ?_)
      split
      · exact takeInterrupt_keepsInv 1 u
      · exact after_next (busRel_inv.refl u)

theorem endInstruction_keepsInv (s : State) : KeepsInv s s.endInstruction := by
  intro h
  unfold State.endInstruction
  split <;> exact inv_same h

theorem runInstr_keepsInv (i : Instr) (s : State) : After KeepsInv s (runInstr i s) := by
  unfold runInstr
  split
  · exact exec_keepsInv i s
  · exact after_andThen busRel_inv.trans (exec_keepsInv i s) fun t =>
      after_of busRel_inv.trans (endInstruction_keepsInv t) (boundary_keepsInv _ _ _)

theorem runUnlisted_keepsInv (c : Unlisted) (s : State) : After KeepsInv s (runUnlisted c s) := by
  unfold runUnlisted
  split
  · exact after_andThen busRel_inv.trans ((instrRel_inv .all).interrupt rfl rfl rfl 6 _ s) fun t =>
      boundary_keepsInv _ _ t
  · exact after_refused _

theorem advance_keepsInv (s : State) (n : Nat) : KeepsInv s (s.advance n) := fun h => inv_same h

theorem runDecoded_keepsInv (d : Decoded) (s : State) : After KeepsInv s (runDecoded d s) := by
  cases d with
  | instr i n =>
    simp only [runDecoded]
    split
    · exact after_refused _
    · split
      · exact after_refused _
      · exact after_of busRel_inv.trans (advance_keepsInv s n) (runInstr_keepsInv i _)
  | unlisted c n =>
    simp only [runDecoded]
    split
    · exact after_refused _
    · exact after_of busRel_inv.trans (advance_keepsInv s n) (runUnlisted_keepsInv c _)
  | movToCs | truncated => exact after_refused _

theorem startFetch_keepsInv (s : State) : KeepsInv s s.markStart.fetched := by
  intro h
  have hmark : Inv s.markStart := by
    unfold State.markStart
    split
    · exact inv_same h
    · exact h
  unfold State.fetched
  split
  · exact hmark
  · exact inv_same hmark

theorem cpuMove_keepsInv (s : State) : After KeepsInv s (cpuMove s) := by
  unfold cpuMove
  split
  · exact after_of busRel_inv.trans (startFetch_keepsInv s) (runDecoded_keepsInv _ _)
  · exact boundary_keepsInv _ _ s
  · exact runInstr_keepsInv _ s
  · exact runInstr_keepsInv _ s

theorem cpuTurn_keepsInv (s : State) : After KeepsInv s (cpuTurn s) := by
  have hbus : KeepsInv s s.takeBus := fun h =>
    ⟨h.mem, h.ch0, h.ch1, h.timer0, h.timer1, h.timer2, h.reloc, h.armed, h.chip, h.ivr⟩
  unfold cpuTurn
  split
  · exact after_next (busRel_inv.refl s)
  · refine after_of busRel_inv.trans hbus ?_
    unfold cpuStep
    split
    · exact after_of busRel_inv.trans (fun h => inv_same h) (boundary_keepsInv _ _ _)
    · exact cpuMove_keepsInv _

theorem dmaTurn_keepsInv (c : Channel) (s : State) : After KeepsInv s (dmaTurn c s) := by
  unfold dmaTurn
  split
  · exact busRel_inv.dmaTransfer c s
  · exact after_next (busRel_inv.refl s)

theorem defaultTurn_keepsInv (s : State) : After KeepsInv s (defaultTurn s) := by
  unfold defaultTurn
  split
  · exact cpuTurn_keepsInv s
  · split
    · split
      · exact after_of busRel_inv.trans (busRel_inv.drawn s 1) (dmaTurn_keepsInv _ _)
      · exact dmaTurn_keepsInv _ s
    · exact cpuTurn_keepsInv s

theorem resetPulse_keepsInv (s : State) : KeepsInv s s.resetPulse := fun h => inv_resetPulse h.mem

theorem leftOver_keepsInv (b : Between) (s : State) : KeepsInv s (leftOver b s) := by
  cases b with
  | world w => exact inv_world s w
  | reset => exact resetPulse_keepsInv s
  | pass | dma _ | master _ | midMaster _ _ | midReset _ | byteOrder _ | dmaReset | pushesFirst =>
    exact busRel_inv.refl s

theorem takeTurn_keepsInv (turn : Turn) (s : State) : After KeepsInv s (takeTurn turn s) := by
  cases turn with
  | cpu => exact cpuTurn_keepsInv s
  | dma c => exact dmaTurn_keepsInv c s
  | master m =>
    simp only [takeTurn]
    split
    · exact busRel_inv.masterMoves m s
    · exact after_next (busRel_inv.refl s)
  | world w => exact after_next (inv_world s w)
  | reset => exact after_next (resetPulse_keepsInv s)
  | between b => exact after_next (leftOver_keepsInv b s)

/-- A step is its outcome, or the pulse that RES makes of the state it was cut off in. -/
theorem endedByRes_eq_next {x : Out} {t : State} (h : endedByRes x = .next t) :
    x = .next t ∨ ∃ u, x = .fault (.res u) ∧ t = u.resetPulse := by
  unfold endedByRes at h
  split at h
  · exact .inl h
  · cases h
    exact .inr ⟨_, rfl, rfl⟩
  · cases h
  · cases h

theorem endedByRes_keepsInv {s t : State} {x : Out} (hx : After KeepsInv s x) (h : endedByRes x = .next t) :
    KeepsInv s t := by
  obtain rfl | ⟨u, rfl, rfl⟩ := endedByRes_eq_next h
  · exact hx t (.inl ⟨t, rfl, rfl⟩)
  · exact busRel_inv.trans _ _ _ (hx u (.inr rfl)) (resetPulse_keepsInv u)

/-- Settles O9: whatever moves next, and wherever RES cuts the step off, the invariant is kept. -/
theorem stepKeepsInvariant : Obligations.StepKeepsInvariant := by
  intro s t hs hstep
  refine endedByRes_keepsInv ?_ hstep hs
  split
  · exact defaultTurn_keepsInv s
  · exact after_of busRel_inv.trans (busRel_inv.setAgenda s _) (takeTurn_keepsInv _ _)

/-- Settles O8: the power-up state is one that RES leaves, and RES sets every register the invariant speaks of. -/
theorem resetInvariant : Obligations.ResetInvariant := by
  have h : Inv State.reset.resetPulse := inv_resetPulse rfl
  rwa [resetPulse_reset] at h

end Sys2Proof.Proofs
end

section
/-! Data transfer over plain operands: moves, segment loads, pushes and pops, exchanges and flag transfers, ports, and
the words that pass the end of a segment. Each meaning reads and writes by the rules of `Laws/Ops.lean`; what is left is
the value. -/

namespace Sys2Proof.Proofs

open Sys2Proof.Machine Sys2Proof.Safety

/-! ### MOV and LEA -/

theorem readRM_plain {s : State} {w : Width} {rm : RM} (hu : s.undisturbed = true)
    (h : plainLoc s w (s.locate rm) = true) : readRM w rm s = .next (valueOf s w (s.locate rm), s) :=
  readLoc_plain hu h

/-- A meaning that starts by reading a plain r/m operand goes on with its value. -/
theorem seq_readRM_plain {s : State} {w : Width} {rm : RM} (hu : s.undisturbed = true)
    (h : plainLoc s w (s.locate rm) = true) (k : BitVec w.bits → State → Out) :
    seq (readRM w rm s) k = k (valueOf s w (s.locate rm)) s := by
  rw [readRM_plain hu h, seq_next]

theorem exec_movAccMem {s : State} {w : Width} {addr : Word} (hu : s.undisturbed = true)
    (h : plain s w (s.segment .ds) addr = true) :
    exec (.movAccMem w addr) s = .next (s.setReg w .ax_al (valueAt s w (phys (s.segment .ds) addr))) := by
  show execMovAccMem w addr s = _
  rw [execMovAccMem, readSeg_plain hu h, seq_next]
  rfl

/-- Settles O16. -/
theorem movResults : Obligations.MovResults := by
  intro s hu
  exact ⟨fun _ _ _ h => writeLoc_plain hu h, fun _ _ _ h => seq_readRM_plain hu h _, fun _ _ h => writeLoc_plain hu h,
    fun _ _ => rfl, fun _ _ => rfl, fun _ _ h => exec_movAccMem hu h, fun _ _ h => writeSeg_plain hu h,
    fun _ _ h => writeLoc_plain hu h, fun _ _ => rfl⟩

/-! ### Segment loads -/

theorem exec_movSregRm {s : State} {q : SegReg} {rm : RM} (hq : q ≠ .cs) (hu : s.undisturbed = true)
    (h : plainLoc s .word (s.locate rm) = true) :
    exec (.movSregRm q rm) s = .next (s.setSeg q (valueOf s .word (s.locate rm))).inhibited := by
  show execMovSregRm q rm s = _
  rw [execMovSregRm, if_neg hq, seq_readRM_plain hu h]

/-- Settles O17. -/
theorem segmentLoads : Obligations.SegmentLoads := by
  intro s hu
  exact ⟨fun _ _ hq h => exec_movSregRm hq hu h, fun _ => rfl,
    fun h => ⟨popSegment_plain hu h, popSegment_plain hu h, popSegment_plain hu h⟩,
    fun _ _ h => ⟨loadPointer_plain hu h, loadPointer_plain hu h⟩⟩

/-! ### PUSH and POP -/

theorem pushRegister_plain {s : State} {r : Reg} (hr : r ≠ .sp_ah) (hu : s.undisturbed = true)
    (h : plain s .word s.segs.ss (s.regs.sp - 2) = true) :
    pushRegister r s = .next (pushed s (s.getReg .word r)) := by
  rw [pushRegister, if_neg hr, push_plain hu h]

/-- A meaning that starts by popping goes on with the word SP points to. -/
theorem seq_pop_plain {s : State} (hu : s.undisturbed = true) (h : plain s .word s.segs.ss s.regs.sp = true)
    (k : Word → State → Out) : seq (pop s) k = k (stackWord s 0) (s.setSp (s.regs.sp + 2)) := by
  rw [pop_plain hu h, seq_next, stackWord_zero]

theorem exec_popRm {s : State} {rm : RM} (hu : s.undisturbed = true) (h : plain s .word s.segs.ss s.regs.sp = true)
    (hl : plainLoc s .word (s.locate rm) = true) :
    exec (.popRm rm) s = .next (putOf (s.setSp (s.regs.sp + 2)) .word (s.locate rm) (stackWord s 0)) := by
  show seq (pop s) (fun v s => writeRM .word rm v s) = _
  rw [seq_pop_plain hu h, writeRM, locate_setSp]
  exact writeLoc_plain (s := s.setSp _) hu ((plainLoc_congr rfl _ _).trans hl)

theorem exec_pushRm_mem {s : State} {m : MemRef} (hu : s.undisturbed = true)
    (h : plain s .word s.segs.ss (s.regs.sp - 2) = true) (hm : plainLoc s .word (s.locate (.mem m)) = true) :
    exec (.pushRm (.mem m)) s = .next (pushed s (valueOf s .word (s.locate (.mem m)))) := by
  show seq (readRM .word (.mem m) s) push = _
  rw [seq_readRM_plain hu hm, push_plain hu h]

/-- Table 2's image has each flag at its bit and constants in the others (R35, R36, D8). -/
theorem image_bits (f : Flags) :
    f.image.getLsbD 0 = f.cf ∧ f.image.getLsbD 1 = true ∧ f.image.getLsbD 2 = f.pf ∧ f.image.getLsbD 3 = false ∧
    f.image.getLsbD 4 = f.af ∧ f.image.getLsbD 5 = false ∧ f.image.getLsbD 6 = f.zf ∧ f.image.getLsbD 7 = f.sf ∧
    f.image.getLsbD 8 = f.tf ∧ f.image.getLsbD 9 = f.ifl ∧ f.image.getLsbD 10 = f.df ∧
    f.image.getLsbD 11 = f.ofl ∧ f.image.getLsbD 12 = true ∧ f.image.getLsbD 13 = true ∧
    f.image.getLsbD 14 = true ∧ f.image.getLsbD 15 = true := by
  obtain ⟨cf, pf, af, zf, sf, tf, ifl, df, ofl⟩ := f
  revert cf pf af zf sf tf ifl df ofl
  decide +kernel

/-- Settles O18. -/
theorem pushPopResults : Obligations.PushPopResults := by
  intro s hu
  refine ⟨fun h => ?_, fun h => ?_, image_bits s.flags, fun _ => rfl⟩
  · have hpush (v : Word) : push v s = .next (pushed s v) := push_plain hu h
    exact ⟨fun _ hm => exec_pushRm_mem hu h hm, fun _ hr => pushRegister_plain hr hu h,
      fun _ hr => pushRegister_plain hr hu h, hpush _, hpush _, hpush _, hpush _, hpush _, hpush _, fun _ => hpush _,
      fun _ => hpush _, hpush _⟩
  · have hpop (k : Word → State → Out) := seq_pop_plain hu h k
    exact ⟨fun _ hl => exec_popRm hu h hl, fun _ => hpop _, hpop _, hpop _⟩

/-! ### XCHG, XLAT, LAHF and SAHF -/

theorem exec_xchgRmReg {s : State} {w : Width} {rm : RM} {reg : Reg} (hu : s.undisturbed = true)
    (h : plainLoc s w (s.locate rm) = true) :
    exec (.xchgRmReg w rm reg) s =
      .next ((putOf s w (s.locate rm) (s.getReg w reg)).setReg w reg (valueOf s w (s.locate rm))) := by
  show execXchgRmReg w rm reg s = _
  simp only [execXchgRmReg, readLoc_plain hu h, seq_next, writeLoc_plain hu h, andThen_next]

theorem exec_xlat {s : State} (hu : s.undisturbed = true)
    (h : plain s .byte (s.segment .ds) (s.regs.bx + (s.getReg .byte .ax_al).setWidth 16) = true) :
    exec .xlat s =
      .next (s.setReg .byte .ax_al
        (s.loadByte (phys (s.segment .ds) (s.regs.bx + (s.getReg .byte .ax_al).setWidth 16)))) := by
  show execXlat s = _
  rw [execXlat, readSeg_plain hu h, seq_next]
  rfl

theorem getLsbD_low (v : Word) {i : Nat} (hi : i < 8) : (Word.low v).getLsbD i = v.getLsbD i := by
  simp [Word.low, hi]

theorem getLsbD_high (v : Word) {i : Nat} (hi : i < 8) : (Word.high v).getLsbD i = v.getLsbD (8 + i) := by
  simp [Word.high, hi]

theorem low_image_bits (f : Flags) :
    (Word.low f.image).getLsbD 7 = f.sf ∧ (Word.low f.image).getLsbD 6 = f.zf ∧
    (Word.low f.image).getLsbD 5 = false ∧ (Word.low f.image).getLsbD 4 = f.af ∧
    (Word.low f.image).getLsbD 3 = false ∧ (Word.low f.image).getLsbD 2 = f.pf ∧
    (Word.low f.image).getLsbD 1 = true ∧ (Word.low f.image).getLsbD 0 = f.cf := by
  obtain ⟨h0, h1, h2, h3, h4, h5, h6, h7, -⟩ := image_bits f
  simp only [getLsbD_low, Nat.reduceLT]
  exact ⟨h7, h6, h5, h4, h3, h2, h1, h0⟩

theorem exec_sahf (s : State) :
    exec .sahf s =
      .next (s.setFlags { s.flags with
        sf := s.regs.ax.getLsbD 15, zf := s.regs.ax.getLsbD 14, af := s.regs.ax.getLsbD 12
        pf := s.regs.ax.getLsbD 10, cf := s.regs.ax.getLsbD 8 }) := by
  show execSahf s = _
  have hah : s.getReg .byte .sp_ah = Word.high s.regs.ax := rfl
  simp only [execSahf, hah, getLsbD_high _ (show 7 < 8 by decide), getLsbD_high _ (show 6 < 8 by decide),
    getLsbD_high _ (show 4 < 8 by decide), getLsbD_high _ (show 2 < 8 by decide), getLsbD_high _ (show 0 < 8 by decide)]

/-- Settles O20. -/
theorem exchangeTranslateFlagTransfer : Obligations.ExchangeTranslateFlagTransfer := fun s =>
  ⟨fun _ _ _ hu h => exec_xchgRmReg hu h, fun _ => rfl, rfl, exec_xlat, ⟨_, rfl, low_image_bits s.flags⟩, exec_sahf s⟩

/-! ### Ports -/

/-- The reserved ports are those of which bits 15 to 3 are 1FH (R151). -/
theorem reservedPort_iff (p : Word) : reservedPort p = true ↔ 0xF8 ≤ p.toNat ∧ p.toNat ≤ 0xFF := by
  have hfield : p.extractLsb' 3 13 = 0x1F#13 ↔ p.toNat / 8 = 31 := by
    rw [← BitVec.toNat_inj, BitVec.extractLsb'_toNat, Nat.shiftRight_eq_div_pow]
    show p.toNat / 8 % 8192 = 31 ↔ _
    omega
  rw [reservedPort, decide_eq_true_iff, hfield]
  omega

theorem toNat_port (port : Byte) : (port.setWidth 16).toNat = port.toNat := by
  rw [BitVec.toNat_setWidth]
  omega

/-- An access of a width at a port touches a reserved port. -/
def touchesReserved (w : Width) (p : Word) : Prop :=
  (0xF8 ≤ p.toNat ∧ p.toNat ≤ 0xFF) ∨ (w = .word ∧ p = 0x00F7#16)

theorem ioCycles_reserved {w : Width} {p : Word} (h : touchesReserved w p) (v : BitVec w.bits) (s : State) :
    ioReadCycle w p s = .refused .reservedPort ∧ ioWriteCycle w p v s = .refused .reservedPort := by
  obtain hp | ⟨rfl, rfl⟩ := h
  · have hres := (reservedPort_iff p).2 hp
    cases w <;> simp [ioReadCycle, ioWriteCycle, hres]
  · have hres : (reservedPort 0x00F7#16 || reservedPort (0x00F7#16 + 1)) = true := by decide
    simp only [ioReadCycle, ioWriteCycle, hres, if_true, and_self]

theorem io_reserved {s : State} (hu : s.undisturbed = true) {w : Width} {p : Word} (h : touchesReserved w p)
    (v : BitVec w.bits) : ioRead w p s = .refused .reservedPort ∧ ioWrite w p v s = .refused .reservedPort := by
  rw [ioRead, ioWrite, interpose_undisturbed hu]
  exact ioCycles_reserved h v s

theorem touchesReserved_byte {w : Width} {port : Byte} (h : 0xF8 ≤ port.toNat ∨ (w = .word ∧ port = 0xF7#8)) :
    touchesReserved w (port.setWidth 16) := by
  obtain hp | ⟨hw, rfl⟩ := h
  · exact .inl (by rw [toNat_port]; exact ⟨hp, by omega⟩)
  · exact .inr ⟨hw, by decide⟩

theorem in_of_ioRead {s : State} {w : Width} {p : Word} {k : BitVec w.bits → State → Out} {r : Refusal}
    (h : ioRead w p s = .refused r) : seq (ioRead w p s) k = .refused r := by
  rw [h, seq_refused]

/-- Settles O21. -/
theorem portResults : Obligations.PortResults := by
  intro s hu
  refine ⟨fun w port h => ⟨?_, ioWrite_plain hu h⟩, fun w h => ⟨?_, ioWrite_plain hu h⟩,
    fun w port h => ?_, fun w h => ?_⟩
  · show seq (ioRead w (port.setWidth 16) s) _ = _
    rw [ioRead_plain hu h]
    rfl
  · show seq (ioRead w s.regs.dx s) _ = _
    rw [ioRead_plain hu h]
    rfl
  · obtain ⟨hin, hout⟩ := io_reserved hu (touchesReserved_byte h) (s.acc w)
    exact ⟨in_of_ioRead hin, hout⟩
  · obtain ⟨hin, hout⟩ := io_reserved hu h (s.acc w)
    exact ⟨in_of_ioRead hin, hout⟩

/-! ### The end of a segment -/

theorem readPointer_refused {off : Word} (h : 0xFFFD ≤ off.toNat) (seg : Word) (s : State) :
    readPointer seg off s = .refused .wordAtFFFF := by
  rw [readPointer, if_pos h]
  rfl

theorem readSeg_word_refused (seg : Word) (s : State) : readSeg .word seg 0xFFFF#16 s = .refused .wordAtFFFF := rfl

theorem writeSeg_word_refused (seg v : Word) (s : State) :
    writeSeg .word seg 0xFFFF#16 v s = .refused .wordAtFFFF := rfl

theorem push_refused {s : State} (h : s.regs.sp = 1#16) (v : Word) : push v s = .refused .wordAtFFFF := by
  have hslot : s.regs.sp - 2 = 0xFFFF#16 := by rw [h]; decide
  rw [push, hslot]
  rfl

theorem pop_refused {s : State} (h : s.regs.sp = 0xFFFF#16) : pop s = .refused .wordAtFFFF := by
  rw [pop, h, readSeg_word_refused, seq_refused]

/-- Settles O12. -/
theorem wordAtSegmentEndRefused : Obligations.WordAtSegmentEndRefused := fun s seg v =>
  ⟨readSeg_word_refused seg s, writeSeg_word_refused seg v s, fun _ h => readPointer_refused h seg s,
    fun h => push_refused h v, pop_refused⟩

end Sys2Proof.Proofs
end

section
/-! Arithmetic, logic and shifts over plain operands: every form of an operation is that operation on the destination's
and the source's value, so each form is settled by the rule of its shape and of its operation. -/

namespace Sys2Proof.Proofs

open Sys2Proof.Machine Sys2Proof.Safety

/-! ### Addition and subtraction -/

section Forms

variable {s : State} (hu : s.undisturbed = true) {w : Width}

include hu

theorem exec_addRmReg {d : Dir} {rm : RM} {reg : Reg} (h : plainLoc s w (s.locate rm) = true) :
    exec (.addRmReg d w rm reg) s =
      .next (sumTo s w (dstOf s d rm reg) (valueOf s w (srcOf s d rm reg)) false) :=
  (withRmReg_plain hu h).trans (addTo_plain hu (plainLoc_dst h))

theorem exec_adcRmReg {d : Dir} {rm : RM} {reg : Reg} (h : plainLoc s w (s.locate rm) = true) :
    exec (.adcRmReg d w rm reg) s =
      .next (sumTo s w (dstOf s d rm reg) (valueOf s w (srcOf s d rm reg)) s.flags.cf) :=
  (withRmReg_plain hu h).trans (addTo_plain hu (plainLoc_dst h))

theorem exec_subRmReg {d : Dir} {rm : RM} {reg : Reg} (h : plainLoc s w (s.locate rm) = true) :
    exec (.subRmReg d w rm reg) s =
      .next (diffTo s w (dstOf s d rm reg) (valueOf s w (srcOf s d rm reg)) false) :=
  (withRmReg_plain hu h).trans (subTo_plain hu (plainLoc_dst h))

theorem exec_sbbRmReg {d : Dir} {rm : RM} {reg : Reg} (h : plainLoc s w (s.locate rm) = true) :
    exec (.sbbRmReg d w rm reg) s =
      .next (diffTo s w (dstOf s d rm reg) (valueOf s w (srcOf s d rm reg)) s.flags.cf) :=
  (withRmReg_plain hu h).trans (subTo_plain hu (plainLoc_dst h))

theorem exec_cmpRmReg {d : Dir} {rm : RM} {reg : Reg} (h : plainLoc s w (s.locate rm) = true) :
    exec (.cmpRmReg d w rm reg) s =
      .next (compared s w (valueOf s w (dstOf s d rm reg)) (valueOf s w (srcOf s d rm reg))) :=
  withRmReg_plain hu h

/-- `op r/m, immediate` for an addition, of any width and form of the immediate. -/
theorem withRmImm_add {c : Bool} {op : (w : Width) → Loc → BitVec w.bits → BitVec w.bits → State → Out}
    (hop : ∀ w l a b, op w l a b s = addTo c w l a b s) {rm : RM} {v : BitVec w.bits}
    (h : plainLoc s w (s.locate rm) = true) : withRmImm op w rm v s = .next (sumTo s w (s.locate rm) v c) := by
  rw [withRmImm_plain hu h, hop, addTo_plain hu h]

theorem withRmImm_sub {c : Bool} {op : (w : Width) → Loc → BitVec w.bits → BitVec w.bits → State → Out}
    (hop : ∀ w l a b, op w l a b s = subTo c w l a b s) {rm : RM} {v : BitVec w.bits}
    (h : plainLoc s w (s.locate rm) = true) : withRmImm op w rm v s = .next (diffTo s w (s.locate rm) v c) := by
  rw [withRmImm_plain hu h, hop, subTo_plain hu h]

theorem withAccImm_add {c : Bool} {op : (w : Width) → Loc → BitVec w.bits → BitVec w.bits → State → Out}
    (hop : ∀ w l a b, op w l a b s = addTo c w l a b s) (imm : Imm) :
    withAccImm op imm s = .next (sumTo s imm.width (.reg .ax_al) imm.value c) :=
  (hop _ _ _ _).trans (addTo_plain hu (l := .reg .ax_al) rfl)

theorem withAccImm_sub {c : Bool} {op : (w : Width) → Loc → BitVec w.bits → BitVec w.bits → State → Out}
    (hop : ∀ w l a b, op w l a b s = subTo c w l a b s) (imm : Imm) :
    withAccImm op imm s = .next (diffTo s imm.width (.reg .ax_al) imm.value c) :=
  (hop _ _ _ _).trans (subTo_plain hu (l := .reg .ax_al) rfl)

end Forms

/-- Settles O22: the register forms by their lemmas, the immediate forms by the one lemma of their shape, and the
accumulator forms with a register as their plain operand. -/
theorem addSubtractResults : Obligations.AddSubtractResults := by
  intro s hu
  have hadd (w : Width) (rm : RM) (v : BitVec w.bits) (h : plainLoc s w (s.locate rm) = true) :
      withRmImm opAdd w rm v s = .next (sumTo s w (s.locate rm) v false) :=
    withRmImm_add hu (op := opAdd) (c := false) (fun _ _ _ _ => rfl) h
  have hadc (w : Width) (rm : RM) (v : BitVec w.bits) (h : plainLoc s w (s.locate rm) = true) :
      withRmImm opAdc w rm v s = .next (sumTo s w (s.locate rm) v s.flags.cf) :=
    withRmImm_add hu (op := opAdc) (c := s.flags.cf) (fun _ _ _ _ => rfl) h
  have hsub (w : Width) (rm : RM) (v : BitVec w.bits) (h : plainLoc s w (s.locate rm) = true) :
      withRmImm opSub w rm v s = .next (diffTo s w (s.locate rm) v false) :=
    withRmImm_sub hu (op := opSub) (c := false) (fun _ _ _ _ => rfl) h
  have hsbb (w : Width) (rm : RM) (v : BitVec w.bits) (h : plainLoc s w (s.locate rm) = true) :
      withRmImm opSbb w rm v s = .next (diffTo s w (s.locate rm) v s.flags.cf) :=
    withRmImm_sub hu (op := opSbb) (c := s.flags.cf) (fun _ _ _ _ => rfl) h
  have hcmp (w : Width) (rm : RM) (v : BitVec w.bits) (h : plainLoc s w (s.locate rm) = true) :
      withRmImm opCmp w rm v s = .next (compared s w (valueOf s w (s.locate rm)) v) := withRmImm_plain hu h
  have hadds (w : Width) (rm : RM) (v : BitVec w.bits) (h : plainLoc s w (s.locate rm) = true) :=
    And.intro (hadd w rm v h) (hadc w rm v h)
  have hsubs (w : Width) (rm : RM) (v : BitVec w.bits) (h : plainLoc s w (s.locate rm) = true) :=
    And.intro (hsub w rm v h) (And.intro (hsbb w rm v h) (hcmp w rm v h))
  refine ⟨fun d w rm reg h => ⟨exec_addRmReg hu h, exec_adcRmReg hu h⟩, fun rm imm h => hadds imm.width rm imm.value h,
    fun rm imm h => hadds .byte rm imm h, fun rm imm h => hadds .word rm (imm.signExtend 16) h, fun imm => ⟨?_, ?_⟩,
    fun d w rm reg h => ⟨exec_subRmReg hu h, exec_sbbRmReg hu h, exec_cmpRmReg hu h⟩,
    fun rm imm h => hsubs imm.width rm imm.value h, fun rm imm h => hsubs .byte rm imm h,
    fun rm imm h => hsubs .word rm (imm.signExtend 16) h, fun imm => ⟨?_, ?_, rfl⟩⟩
  · exact withAccImm_add hu (op := opAdd) (c := false) (fun _ _ _ _ => rfl) imm
  · exact withAccImm_add hu (op := opAdc) (c := s.flags.cf) (fun _ _ _ _ => rfl) imm
  · exact withAccImm_sub hu (op := opSub) (c := false) (fun _ _ _ _ => rfl) imm
  · exact withAccImm_sub hu (op := opSbb) (c := s.flags.cf) (fun _ _ _ _ => rfl) imm

/-! ### INC, DEC and NEG -/

theorem addResult_one {n : Nat} (x : BitVec n) : addResult x 1 false = x + 1 := by simp [addResult]

theorem subResult_one {n : Nat} (x : BitVec n) : subResult x 1 false = x - 1 := by simp [subResult]

theorem subResult_zero {n : Nat} (x : BitVec n) : subResult 0 x false = -x := by simp [subResult]

theorem increment_eq {s : State} (hu : s.undisturbed = true) {w : Width} {l : Loc} (h : plainLoc s w l = true) :
    increment w l s =
      .next (putOf (s.setFlags { s.flags.add (valueOf s w l) 1 false with cf := s.flags.cf }) w l
        (valueOf s w l + 1)) := by
  rw [increment_plain hu h, addResult_one]
  rfl

theorem decrement_eq {s : State} (hu : s.undisturbed = true) {w : Width} {l : Loc} (h : plainLoc s w l = true) :
    decrement w l s =
      .next (putOf (s.setFlags { s.flags.sub (valueOf s w l) 1 false with cf := s.flags.cf }) w l
        (valueOf s w l - 1)) := by
  rw [decrement_plain hu h, subResult_one]
  rfl

theorem exec_negRm {s : State} (hu : s.undisturbed = true) {w : Width} {rm : RM}
    (h : plainLoc s w (s.locate rm) = true) :
    exec (.negRm w rm) s =
      .next (putOf (s.setFlags (s.flags.sub 0 (valueOf s w (s.locate rm)) false)) w (s.locate rm)
        (-valueOf s w (s.locate rm))) := by
  show seq (readLoc w (s.locate rm) s) (fun a s' => subTo false w (s.locate rm) 0 a s') = _
  rw [readLoc_plain hu h, seq_next, subTo, subResult_zero]
  exact writeLoc_plain (s := s.setFlags _) hu ((plainLoc_congr rfl _ _).trans h)

/-- Settles O24. -/
theorem incDecNegResults : Obligations.IncDecNegResults := fun _ hu =>
  ⟨fun _ _ h => ⟨increment_eq hu h, decrement_eq hu h, exec_negRm hu h⟩,
    fun reg => ⟨increment_eq hu (l := .reg reg) rfl, decrement_eq hu (l := .reg reg) rfl⟩⟩

/-! ### Results as numbers: SF, ZF and PF -/

theorem msb_iff_toInt_neg {n : Nat} (r : BitVec n) : r.msb = true ↔ r.toInt < 0 := by
  rw [BitVec.msb_eq_toInt, decide_eq_true_iff]

/-- The parity of the bits that `parity8` folds is that of their count (R35). -/
theorem parity8_iff {n : Nat} (r : BitVec n) : parity8 r = true ↔ evenParity r := by
  have key : ∀ b0 b1 b2 b3 b4 b5 b6 b7 : Bool,
      (!(b0 ^^ b1 ^^ b2 ^^ b3 ^^ b4 ^^ b5 ^^ b6 ^^ b7)) = true ↔
        [b0, b1, b2, b3, b4, b5, b6, b7].countP id % 2 = 0 := by decide
  exact (key _ _ _ _ _ _ _ _).trans (by rw [evenParity]; simp [List.range_succ, List.countP_cons])

/-- SF, ZF and PF describe the result (R17, R35). -/
theorem szp_describes {n : Nat} (f : Flags) (r : BitVec n) :
    ((f.szp r).zf = true ↔ r = 0) ∧ ((f.szp r).sf = true ↔ r.toInt < 0) ∧ ((f.szp r).pf = true ↔ evenParity r) :=
  ⟨decide_eq_true_iff, msb_iff_toInt_neg r, parity8_iff r⟩

/-! ### AND, OR, XOR, TEST and NOT -/

/-- A logical operation of two operands, at either width. -/
abbrev BitwiseOp : Type := {w : Width} → BitVec w.bits → BitVec w.bits → BitVec w.bits

theorem withRmReg_logic {s : State} (hu : s.undisturbed = true)
    {op : (w : Width) → Loc → BitVec w.bits → BitVec w.bits → State → Out} {f : BitwiseOp}
    (hop : ∀ w l a b, op w l a b s = logicTo w l (f a b) s) {d : Dir} {w : Width} {rm : RM} {reg : Reg}
    (h : plainLoc s w (s.locate rm) = true) :
    withRmReg op d w rm reg s =
      .next (logicalTo s w (dstOf s d rm reg)
        (f (valueOf s w (dstOf s d rm reg)) (valueOf s w (srcOf s d rm reg)))) := by
  rw [withRmReg_plain hu h, hop, logicTo_plain hu (plainLoc_dst h)]

theorem withRmImm_logic {s : State} (hu : s.undisturbed = true)
    {op : (w : Width) → Loc → BitVec w.bits → BitVec w.bits → State → Out} {f : BitwiseOp}
    (hop : ∀ w l a b, op w l a b s = logicTo w l (f a b) s) {w : Width} {rm : RM} {v : BitVec w.bits}
    (h : plainLoc s w (s.locate rm) = true) :
    withRmImm op w rm v s = .next (logicalTo s w (s.locate rm) (f (valueOf s w (s.locate rm)) v)) := by
  rw [withRmImm_plain hu h, hop, logicTo_plain hu h]

theorem withAccImm_logic {s : State} (hu : s.undisturbed = true)
    {op : (w : Width) → Loc → BitVec w.bits → BitVec w.bits → State → Out} {f : BitwiseOp}
    (hop : ∀ w l a b, op w l a b s = logicTo w l (f a b) s) (imm : Imm) :
    withAccImm op imm s =
      .next (logicalTo s imm.width (.reg .ax_al) (f (s.getReg imm.width .ax_al) imm.value)) :=
  (hop _ _ _ _).trans (logicTo_plain hu (l := .reg .ax_al) rfl)

theorem exec_testRmReg {s : State} (hu : s.undisturbed = true) {w : Width} {rm : RM} {reg : Reg}
    (h : plainLoc s w (s.locate rm) = true) :
    exec (.testRmReg w rm reg) s = .next (s.logicFlags (valueOf s w (s.locate rm) &&& s.getReg w reg)) :=
  withRmReg_plain hu (op := opTest) (d := .toRm) h

theorem exec_notRm {s : State} (hu : s.undisturbed = true) {w : Width} {rm : RM}
    (h : plainLoc s w (s.locate rm) = true) :
    exec (.notRm w rm) s = .next (putOf s w (s.locate rm) (~~~ valueOf s w (s.locate rm))) := by
  show seq (readLoc w (s.locate rm) s) (fun a s' => writeLoc w (s.locate rm) (~~~a) s') = _
  rw [readLoc_plain hu h, seq_next, writeLoc_plain hu h]

/-- Settles O30: the three operations share one rule per shape; the flags are those that describe a result. -/
theorem logicResults : Obligations.LogicResults := by
  intro s hu
  refine ⟨fun d w rm reg h => ⟨?_, ?_, ?_⟩, fun w rm reg h => ⟨exec_testRmReg hu h, exec_notRm hu h⟩,
    fun rm imm h => ⟨?_, ?_, ?_, ?_⟩, fun imm => ⟨?_, ?_, ?_, rfl⟩, fun w r => ?_⟩
  · exact withRmReg_logic hu (op := opAnd) (f := (· &&& ·)) (fun _ _ _ _ => rfl) h
  · exact withRmReg_logic hu (op := opOr) (f := (· ||| ·)) (fun _ _ _ _ => rfl) h
  · exact withRmReg_logic hu (op := opXor) (f := (· ^^^ ·)) (fun _ _ _ _ => rfl) h
  · exact withRmImm_logic hu (op := opAnd) (f := (· &&& ·)) (fun _ _ _ _ => rfl) h
  · exact withRmImm_logic hu (op := opOr) (f := (· ||| ·)) (fun _ _ _ _ => rfl) h
  · exact withRmImm_logic hu (op := opXor) (f := (· ^^^ ·)) (fun _ _ _ _ => rfl) h
  · exact withRmImm_plain hu (op := opTest) h
  · exact withAccImm_logic hu (op := opAnd) (f := (· &&& ·)) (fun _ _ _ _ => rfl) imm
  · exact withAccImm_logic hu (op := opOr) (f := (· ||| ·)) (fun _ _ _ _ => rfl) imm
  · exact withAccImm_logic hu (op := opXor) (f := (· ^^^ ·)) (fun _ _ _ _ => rfl) imm
  · obtain ⟨hzf, hsf, hpf⟩ := szp_describes s.flags r
    exact ⟨rfl, rfl, hzf, hsf, hpf, rfl, rfl, rfl⟩

/-! ### Shifts -/

/-- The effective count is the count modulo 32 (D12). -/
theorem shiftCount_eq (k : Byte) : shiftCount k = k.toNat % 32 := by
  rw [shiftCount, Config.shiftCountMask, BitVec.toNat_and]
  exact Nat.and_two_pow_sub_one_eq_mod k.toNat 5

theorem shifted_of_count_zero {k : Byte} (h : k.toNat % 32 = 0) (s : State) (op : ShiftOp) (w : Width) (l : Loc) :
    shifted s op w l k = s := by
  rw [shifted, if_pos ((shiftCount_eq k).trans h)]

/-- Settles O31: all 21 forms run the one `shiftRm`. -/
theorem shiftResults : Obligations.ShiftResults := by
  intro s w rm k hu h
  have hshift (op : ShiftOp) (count : Byte) :
      shiftRm op w rm count s = .next (shifted s op w (s.locate rm) count) := shiftRm_plain hu h
  have hforms (op : ShiftOp) :
      shiftRm op w rm 1 s = .next (shifted s op w (s.locate rm) 1) ∧
      shiftRm op w rm (s.getReg .byte .cx_cl) s = .next (shifted s op w (s.locate rm) (s.regs.cx.extractLsb' 0 8)) ∧
      shiftRm op w rm k s = .next (shifted s op w (s.locate rm) k) := ⟨hshift _ _, hshift _ _, hshift _ _⟩
  exact ⟨hforms .rol, hforms .ror, hforms .rcl, hforms .rcr, hforms .shl, hforms .shr, hforms .sar, shiftCount_eq k,
    fun hk op => shifted_of_count_zero hk s op w _⟩

end Sys2Proof.Proofs
end

section
/-! The stack: where the words below and above SP lie, chains of pushes and of pops over plain places, what lies on the
stack after pushes, and what of memory they leave. -/

namespace Sys2Proof.Proofs

open Sys2Proof.Machine Sys2Proof.Safety

/-! ### Offsets of one segment -/

/-- A segment holds 64K bytes of 1M, so its offsets name distinct bytes. -/
theorem phys_inj {seg a b : Word} : phys seg a = phys seg b ↔ a = b := by
  refine ⟨fun h => ?_, fun h => h ▸ rfl⟩
  have h' := congrArg BitVec.toNat h
  rw [toNat_phys, toNat_phys] at h'
  refine BitVec.eq_of_toNat_eq ?_
  omega

theorem phys_succ {off : Word} (h : off ≠ 0xFFFF#16) (seg : Word) : phys seg off + 1 = phys seg (off + 1) := by
  refine BitVec.eq_of_toNat_eq ?_
  have hoff : off.toNat ≠ 65535 := fun e => h (BitVec.eq_of_toNat_eq e)
  rw [BitVec.toNat_add, toNat_phys, toNat_phys, BitVec.toNat_add, show (1 : Addr).toNat = 1 from rfl,
    show (1 : Word).toNat = 1 from rfl]
  omega

theorem ne_end_of_plain {s : State} {seg off : Word} (h : plain s .word seg off = true) : off ≠ 0xFFFF#16 := by
  simp only [plain, Bool.and_eq_true, decide_eq_true_eq] at h
  exact h.1

/-- A store to a word of a segment leaves a byte at another offset. -/
theorem loadByte_storeWord_offset {s : State} {seg off b : Word} (hoff : off ≠ 0xFFFF#16) (h0 : b ≠ off)
    (h1 : b ≠ off + 1) (v : Word) :
    (s.storeWord (phys seg off) v).loadByte (phys seg b) = s.loadByte (phys seg b) := by
  exact State.loadByte_storeWord_ne s (fun e => h0 (phys_inj.1 e))
    (fun e => h1 (phys_inj.1 (e.trans (phys_succ hoff seg)))) v

/-- A word of a segment that shares no offset with the word stored is left. -/
theorem loadWord_storeWord_offset {s : State} {seg off b : Word} (hoff : off ≠ 0xFFFF#16) (hb : b ≠ 0xFFFF#16)
    (h0 : b ≠ off) (h1 : b ≠ off + 1) (h2 : b + 1 ≠ off) (v : Word) :
    (s.storeWord (phys seg off) v).loadWord (phys seg b) = s.loadWord (phys seg b) := by
  have h3 : b + 1 ≠ off + 1 := fun e => h0 (by simpa using e)
  rw [State.loadWord, State.loadWord, phys_succ hb, loadByte_storeWord_offset hoff h0 h1,
    loadByte_storeWord_offset hoff h2 h3]

/-! ### Words below and above SP -/

theorem ofNat_two_mul_succ (k : Nat) : BitVec.ofNat 16 (2 * (k + 1)) = BitVec.ofNat 16 (2 * k) + 2 := by
  rw [Nat.mul_add, BitVec.ofNat_add]
  rfl

theorem roomFor_iff {s : State} {n : Nat} :
    roomFor s n = true ↔
      ∀ k, k < n → plain s .word s.segs.ss (s.regs.sp - BitVec.ofNat 16 (2 * (k + 1))) = true := by
  induction n with
  | zero => simp [roomFor]
  | succ n ih => rw [roomFor, Bool.and_eq_true, ih, Nat.forall_lt_succ_right, and_comm]

theorem heldOn_iff {s : State} {n : Nat} :
    heldOn s n = true ↔ ∀ k, k < n → plain s .word s.segs.ss (s.regs.sp + BitVec.ofNat 16 (2 * k)) = true := by
  induction n with
  | zero => simp [heldOn]
  | succ n ih => rw [heldOn, Bool.and_eq_true, ih, Nat.forall_lt_succ_right, and_comm]

theorem roomFor_congr {s t : State} (n : Nat) (reloc : t.reloc = s.reloc := by rfl)
    (memMap : t.memMap = s.memMap := by rfl) (ss : t.segs.ss = s.segs.ss := by rfl)
    (sp : t.regs.sp = s.regs.sp := by rfl) : roomFor t n = roomFor s n := by
  rw [Bool.eq_iff_iff, roomFor_iff, roomFor_iff, ss, sp]
  simp only [plain_congr reloc (hm := memMap)]

theorem plainVector_congr {s t : State} (n : Byte) (reloc : t.reloc = s.reloc := by rfl)
    (memMap : t.memMap = s.memMap := by rfl) : plainVector t n = plainVector s n := by
  rw [plainVector, plainVector, plainAt_congr reloc (hm := memMap), plainAt_congr reloc (hm := memMap)]

/-! ### A chain of pushes -/

/-- Words pushed one after the other, the last one first in the list: the list is the stack from SP up. -/
def pushes (s : State) : List Word → State
  | [] => s
  | v :: below => pushed (pushes s below) v

theorem pushes_kept (s : State) (l : List Word) :
    pushes s l = { s with
      regs := { s.regs with sp := s.regs.sp - BitVec.ofNat 16 (2 * l.length) }
      mem := (pushes s l).mem, stale := (pushes s l).stale } := by
  induction l with
  | nil => simp [pushes]
  | cons v below ih =>
    have hsp : (pushes s below).regs.sp - 2 = s.regs.sp - BitVec.ofNat 16 (2 * (below.length + 1)) := by
      rw [ih, ofNat_two_mul_succ]
      show s.regs.sp - _ - 2 = _
      rw [BitVec.sub_sub]
    rw [List.length_cons, ← hsp]
    conv_lhs => rw [pushes, pushed, ih]
    conv_rhs => rw [pushes, pushed, ih]
    rfl

section Chain

variable {s : State} {l : List Word}

theorem pushes_regs : (pushes s l).regs = { s.regs with sp := s.regs.sp - BitVec.ofNat 16 (2 * l.length) } := by
  rw [pushes_kept]

theorem pushes_segs : (pushes s l).segs = s.segs := by rw [pushes_kept]

theorem pushes_flags : (pushes s l).flags = s.flags := by rw [pushes_kept]

theorem pushes_undisturbed : (pushes s l).undisturbed = s.undisturbed := by rw [pushes_kept]; rfl

theorem pushes_reloc : (pushes s l).reloc = s.reloc := by rw [pushes_kept]

theorem pushes_memMap : (pushes s l).memMap = s.memMap := by rw [pushes_kept]

/-- The slot below `n` words pushed is the next one of those that are free in `s`. -/
theorem pushes_slot : (pushes s l).regs.sp - 2 = s.regs.sp - BitVec.ofNat 16 (2 * (l.length + 1)) := by
  rw [pushes_regs, ofNat_two_mul_succ]
  exact BitVec.sub_sub _ _ _

theorem plain_pushes (w : Width) (seg off : Word) : plain (pushes s l) w seg off = plain s w seg off :=
  plain_congr pushes_reloc w seg off pushes_memMap

/-- A push after others goes to the next free slot. -/
theorem push_pushes {n : Nat} (hu : s.undisturbed = true) (h : roomFor s n = true) (hl : l.length < n) (v : Word) :
    push v (pushes s l) = .next (pushes s (v :: l)) := by
  refine push_plain (pushes_undisturbed.trans hu) ?_
  rw [plain_pushes, pushes_segs, pushes_slot]
  exact roomFor_iff.1 h _ hl

theorem pushes_wf (hwf : s.mem.wf = true) : (pushes s l).mem.wf = true := by
  induction l with
  | nil => exact hwf
  | cons v below ih => exact State.storeWord_wf (s := (pushes s below).setSp _) ih _ _

end Chain

/-- A push leaves every byte outside its slot. -/
theorem loadByte_pushed {s : State} {a : Addr} (hslot : s.regs.sp - 2 ≠ 0xFFFF#16)
    (h0 : a ≠ phys s.segs.ss (s.regs.sp - 2)) (h1 : a ≠ phys s.segs.ss (s.regs.sp - 2 + 1)) (v : Word) :
    (pushed s v).loadByte a = s.loadByte a := by
  refine State.loadByte_storeWord_ne (s.setSp (s.regs.sp - 2)) h0 (fun e => h1 ?_) v
  rw [e, phys_succ hslot]

/-- Pushes leave every byte outside their slots, which are the `2 n` bytes below the old SP. -/
theorem loadByte_pushes {s : State} {l : List Word} (h : roomFor s l.length = true) {a : Addr}
    (ha : ∀ k, k < 2 * l.length → a ≠ phys s.segs.ss (s.regs.sp - BitVec.ofNat 16 (k + 1))) :
    (pushes s l).loadByte a = s.loadByte a := by
  induction l with
  | nil => rfl
  | cons v below ih =>
    rw [List.length_cons] at h ha
    have hslot := roomFor_iff.1 h below.length (by omega)
    have hlow : s.regs.sp - BitVec.ofNat 16 (2 * (below.length + 1)) + 1 =
        s.regs.sp - BitVec.ofNat 16 (2 * below.length + 1) := by
      rw [show 2 * (below.length + 1) = 2 * below.length + 1 + 1 from by omega, BitVec.ofNat_add _ 1]
      show _ = s.regs.sp - BitVec.ofNat 16 (2 * below.length + 1)
      generalize BitVec.ofNat 16 (2 * below.length + 1) = x
      bv_omega
    rw [pushes, loadByte_pushed]
    · exact ih (roomFor_iff.2 fun k hk => roomFor_iff.1 h k (by omega)) fun k hk => ha k (by omega)
    · rw [pushes_slot]
      exact ne_end_of_plain hslot
    · rw [pushes_slot, pushes_segs]
      exact ha (2 * below.length + 1) (by omega)
    · rw [pushes_slot, pushes_segs, hlow]
      exact ha (2 * below.length) (by omega)

/-! ### What lies on the stack after pushes -/

theorem stackWord_pushed_zero {s : State} (hwf : s.mem.wf = true) (v : Word) : stackWord (pushed s v) 0 = v := by
  rw [stackWord_zero]
  exact State.loadWord_storeWord (s := s.setSp (s.regs.sp - 2)) hwf _ v

/-- A push leaves the words already on the stack, each one place further up. -/
theorem stackWord_pushed_succ {s : State} {k : Nat} (hk : 2 * k + 3 < 65536) (hslot : s.regs.sp - 2 ≠ 0xFFFF#16)
    (hword : s.regs.sp + BitVec.ofNat 16 (2 * k) ≠ 0xFFFF#16) (v : Word) :
    stackWord (pushed s v) (k + 1) = stackWord s k := by
  have hoff : (pushed s v).regs.sp + BitVec.ofNat 16 (2 * (k + 1)) = s.regs.sp + BitVec.ofNat 16 (2 * k) := by
    rw [ofNat_two_mul_succ]
    show s.regs.sp - 2 + _ = _
    bv_omega
  rw [stackWord, hoff]
  refine loadWord_storeWord_offset (s := s.setSp (s.regs.sp - 2)) hslot hword ?_ ?_ ?_ v
  all_goals bv_omega

/-- The stack after pushes holds the words pushed, the last one at SP. -/
theorem stackWord_pushes {s : State} {l : List Word} (hwf : s.mem.wf = true) (hl : 2 * l.length < 65536)
    (h : roomFor s l.length = true) {k : Nat} (hk : k < l.length) : stackWord (pushes s l) k = l[k] := by
  induction l generalizing k with
  | nil => cases hk
  | cons v below ih =>
    rw [List.length_cons] at hl h hk
    cases k with
    | zero => exact stackWord_pushed_zero (pushes_wf hwf) v
    | succ k =>
      rw [pushes, stackWord_pushed_succ (by omega)]
      · exact ih (by omega) (roomFor_iff.2 fun j hj => roomFor_iff.1 h j (by omega)) (by omega)
      · rw [pushes_slot]
        exact ne_end_of_plain (roomFor_iff.1 h below.length (by omega))
      · have hword := ne_end_of_plain (roomFor_iff.1 h (below.length - 1 - k) (by omega))
        rw [pushes_regs]
        convert hword using 1
        show s.regs.sp - _ + _ = _
        have hsum : 2 * below.length = 2 * (below.length - 1 - k + 1) + 2 * k := by omega
        rw [hsum, BitVec.ofNat_add]
        bv_omega

/-! ### A chain of pops -/

/-- `u` reads the stack of `s` from its `j`-th word on: what a meaning has popped so far changed nothing the next pop
looks at. -/
structure PopsFrom (s : State) (j : Nat) (u : State) : Prop where
  undisturbed : u.undisturbed = true
  mem : u.mem = s.mem := by rfl
  reloc : u.reloc = s.reloc := by rfl
  memMap : u.memMap = s.memMap := by rfl
  ss : u.segs.ss = s.segs.ss := by rfl
  sp : u.regs.sp = s.regs.sp + BitVec.ofNat 16 (2 * j)

theorem PopsFrom.start {s : State} (hu : s.undisturbed = true) : PopsFrom s 0 s where
  undisturbed := hu
  sp := by simp

theorem PopsFrom.succ {s u : State} {j : Nat} (h : PopsFrom s j u) : PopsFrom s (j + 1) (u.setSp (u.regs.sp + 2)) where
  undisturbed := h.undisturbed
  mem := h.mem
  reloc := h.reloc
  memMap := h.memMap
  ss := h.ss
  sp := by
    show u.regs.sp + 2 = _
    rw [h.sp, ofNat_two_mul_succ, BitVec.add_assoc]

theorem loadWord_congr {s t : State} (h : t.mem = s.mem) (a : Addr) : t.loadWord a = s.loadWord a := by
  rw [State.loadWord, State.loadWord, State.loadByte, State.loadByte, State.loadByte, State.loadByte, h]

/-- A pop there is the next word of the stack of `s`. -/
theorem PopsFrom.seq_pop {s u : State} {j n : Nat} (h : PopsFrom s j u) (hheld : heldOn s n = true) (hj : j < n)
    (k : Word → State → Out) : seq (pop u) k = k (stackWord s j) (u.setSp (u.regs.sp + 2)) := by
  have hplain : plain u .word u.segs.ss u.regs.sp = true := by
    rw [plain_congr h.reloc _ _ _ h.memMap, h.ss, h.sp]
    exact heldOn_iff.1 hheld j hj
  have hword : stackWord u 0 = stackWord s j := by
    rw [stackWord_zero, h.ss, h.sp, loadWord_congr h.mem]
    rfl
  rw [seq_pop_plain h.undisturbed hplain, hword]

/-- The words pushed can be popped again. -/
theorem heldOn_pushes {s : State} {l : List Word} (h : roomFor s l.length = true) :
    heldOn (pushes s l) l.length = true := by
  refine heldOn_iff.2 fun k hk => ?_
  rw [plain_pushes, pushes_segs, pushes_regs]
  convert roomFor_iff.1 h (l.length - 1 - k) (by omega) using 2
  show s.regs.sp - _ + _ = _
  have hsum : 2 * l.length = 2 * (l.length - 1 - k + 1) + 2 * k := by omega
  rw [hsum, BitVec.ofNat_add]
  bv_omega

theorem heldOn_congr {s t : State} (n : Nat) (reloc : t.reloc = s.reloc := by rfl)
    (memMap : t.memMap = s.memMap := by rfl) (ss : t.segs.ss = s.segs.ss := by rfl)
    (sp : t.regs.sp = s.regs.sp := by rfl) : heldOn t n = heldOn s n := by
  rw [Bool.eq_iff_iff, heldOn_iff, heldOn_iff, ss, sp]
  simp only [plain_congr reloc (hm := memMap)]

end Sys2Proof.Proofs
end

section
/-! Calls, returns, PUSHA, POPA and interrupts: each is a chain of pushes or of pops, and what undoes what follows from
what lies on the stack after pushes. -/

namespace Sys2Proof.Proofs

open Sys2Proof.Machine Sys2Proof.Safety

/-! ### Chains inside a meaning -/

/-- The continuation of a push after others runs on the longer chain. -/
theorem pushThen_pushes {s : State} {l : List Word} {n : Nat} (hu : s.undisturbed = true) (h : roomFor s n = true)
    (hl : l.length < n) (v : Word) (k : State → Out) : andThen (push v (pushes s l)) k = k (pushes s (v :: l)) := by
  rw [push_pushes hu h hl, andThen_next]

/-- A pop after `j` others, where only registers were loaded since. -/
theorem seq_pop_regs {s : State} {j n : Nat} (hu : s.undisturbed = true) (h : heldOn s n = true) (hj : j < n) {g : Regs}
    (hg : g.sp = s.regs.sp + BitVec.ofNat 16 (2 * j)) (k : Word → State → Out) :
    seq (pop { s with regs := g }) k =
      k (stackWord s j) { s with regs := { g with sp := s.regs.sp + BitVec.ofNat 16 (2 * (j + 1)) } } := by
  have p : PopsFrom s j { s with regs := g } := { undisturbed := hu, sp := hg }
  rw [p.seq_pop h hj, ← p.succ.sp]
  rfl

/-- The words of a stack of pushes lie at increasing offsets from the new SP on. -/
theorem loadByte_pushes_above {s : State} {l : List Word} {n : Nat} (hn : 2 * l.length = n)
    (h : roomFor s l.length = true) {a : Addr}
    (ha : ∀ k, k < n → a ≠ phys s.segs.ss (s.regs.sp - BitVec.ofNat 16 n + BitVec.ofNat 16 k)) :
    (pushes s l).loadByte a = s.loadByte a := by
  refine loadByte_pushes h fun k hk => ?_
  convert ha (n - 1 - k) (by omega) using 2
  have hsum : n = k + 1 + (n - 1 - k) := by omega
  conv_rhs => rw [hsum, BitVec.ofNat_add]
  rw [show k + 1 + (n - 1 - k) - 1 - k = n - 1 - k from by omega]
  generalize BitVec.ofNat 16 (k + 1) = x
  bv_omega

/-! ### PUSHA and POPA -/

/-- The eight registers as PUSHA leaves them on the stack, DI at the new SP (R238). -/
def pushaWords (s : State) : List Word :=
  [s.regs.di, s.regs.si, s.regs.bp, s.regs.sp, s.regs.bx, s.regs.dx, s.regs.cx, s.regs.ax]

theorem exec_pusha {s : State} (hu : s.undisturbed = true) (h : roomFor s 8 = true) :
    exec .pusha s = .next (pushes s (pushaWords s)) := by
  show execPusha s = _
  rw [execPusha, ← show pushes s [] = s from rfl]
  simp only [pushThen_pushes hu h, pushes_regs, List.length_cons, List.length_nil, Nat.reduceAdd, Nat.reduceLT]
  rw [push_pushes hu h (by simp)]
  simp only [pushaWords, pushes, Nat.mul_zero, BitVec.sub_zero]

theorem exec_popa {s : State} (hu : s.undisturbed = true) (h : heldOn s 8 = true) :
    exec .popa s =
      .next { s with
        regs := { ax := stackWord s 7, cx := stackWord s 6, dx := stackWord s 5, bx := stackWord s 4
                  sp := s.regs.sp + 16, bp := stackWord s 2, si := stackWord s 1, di := stackWord s 0 } } := by
  show execPopa s = _
  have next {j : Nat} (hj : j < 8) (g : Regs) (k : Word → State → Out)
      (hg : g.sp = s.regs.sp + BitVec.ofNat 16 (2 * j)) :=
    seq_pop_regs hu h hj hg k
  refine (next (j := 0) (by decide) s.regs _ (by simp)).trans ?_
  refine (next (j := 1) (by decide) { s.regs with sp := _, di := stackWord s 0 } _ rfl).trans ?_
  refine (next (j := 2) (by decide) { s.regs with sp := _, di := stackWord s 0, si := stackWord s 1 } _ rfl).trans ?_
  refine (next (j := 3) (by decide) { s.regs with
    sp := _, di := stackWord s 0, si := stackWord s 1, bp := stackWord s 2 } _ rfl).trans ?_
  refine (next (j := 4) (by decide) { s.regs with
    sp := _, di := stackWord s 0, si := stackWord s 1, bp := stackWord s 2 } _ rfl).trans ?_
  refine (next (j := 5) (by decide) { s.regs with
    sp := _, di := stackWord s 0, si := stackWord s 1, bp := stackWord s 2, bx := stackWord s 4 } _ rfl).trans ?_
  refine (next (j := 6) (by decide) { s.regs with
    sp := _, di := stackWord s 0, si := stackWord s 1, bp := stackWord s 2, bx := stackWord s 4
    dx := stackWord s 5 } _ rfl).trans ?_
  exact next (j := 7) (by decide) { s.regs with
    sp := _, di := stackWord s 0, si := stackWord s 1, bp := stackWord s 2, bx := stackWord s 4
    dx := stackWord s 5, cx := stackWord s 6 } _ rfl

/-- Settles O19: the words POPA reads after PUSHA are those PUSHA pushed. -/
theorem pushaPopaResults : Obligations.PushaPopaResults := by
  intro s hu
  refine ⟨fun h => ?_, exec_popa hu, fun hwf h => ?_⟩
  · rw [exec_pusha hu h]
    simp only [pushaWords, pushes]
  have hheld : heldOn (pushes s (pushaWords s)) 8 = true := heldOn_pushes (l := pushaWords s) h
  have hword {k : Nat} (hk : k < 8) : stackWord (pushes s (pushaWords s)) k = (pushaWords s)[k] :=
    stackWord_pushes (l := pushaWords s) hwf (by show 16 < 65536; decide) h hk
  have hsp : (pushes s (pushaWords s)).regs.sp + 16 = s.regs.sp := by
    rw [pushes_regs]
    exact BitVec.sub_add_cancel s.regs.sp 16
  have hframe (a : Addr)
      (ha : ∀ k, k < 16 → a ≠ phys s.segs.ss (s.regs.sp - 16 + BitVec.ofNat 16 k)) :
      (pushes s (pushaWords s)).loadByte a = s.loadByte a := loadByte_pushes_above (l := pushaWords s) rfl h ha
  refine ⟨_, _, exec_pusha hu h, exec_popa (pushes_undisturbed.trans hu) hheld, ?_⟩
  refine ⟨?_, ?_, ?_, hframe⟩
  · simp only [hword (show 7 < 8 by decide), hword (show 6 < 8 by decide), hword (show 5 < 8 by decide),
      hword (show 4 < 8 by decide), hword (show 2 < 8 by decide), hword (show 1 < 8 by decide),
      hword (show 0 < 8 by decide), hsp]
    rfl
  · dsimp only
    exact pushes_segs
  · dsimp only
    exact pushes_flags

end Sys2Proof.Proofs
end

section
/-! Calls and returns, the interrupt sequence and IRET, and the instructions that take an interrupt. -/

namespace Sys2Proof.Proofs

open Sys2Proof.Machine Sys2Proof.Safety

/-! ### Calls -/

theorem exec_callNear {s : State} (hu : s.undisturbed = true) (h : plain s .word s.segs.ss (s.regs.sp - 2) = true)
    (d : Word) : exec (.callNear d) s = .next ((pushed s s.ip).jump (s.ip + d)) := by
  show andThen (push s.ip s) _ = _
  rw [push_plain hu h]
  rfl

theorem exec_callNearRm {s : State} (hu : s.undisturbed = true) (h : plain s .word s.segs.ss (s.regs.sp - 2) = true)
    {rm : RM} (hrm : plainLoc s .word (s.locate rm) = true) :
    exec (.callNearRm rm) s = .next ((pushed s s.ip).jump (valueOf s .word (s.locate rm))) := by
  show seq (readRM .word rm s) _ = _
  rw [seq_readRM_plain hu hrm, push_plain hu h]
  rfl

theorem exec_callFarMem {s : State} (hu : s.undisturbed = true) (h : roomFor s 2 = true) {mem : MemRef}
    (hmem : plainPointer s (s.memSeg mem) (s.ea mem) = true) :
    exec (.callFarMem mem) s =
      .next ((pushed (pushed s s.segs.cs) s.ip).farJump (s.loadWord (phys (s.memSeg mem) (s.ea mem + 2)))
        (s.loadWord (phys (s.memSeg mem) (s.ea mem)))) := by
  show seq (readPointer (s.memSeg mem) (s.ea mem) s) _ = _
  rw [readPointer_plain hu hmem, seq_next, callFarTo_plain hu h]

/-! ### Returns -/

/-- The continuation of the first pop. -/
theorem seq_pop_first {s : State} {n : Nat} (hu : s.undisturbed = true) (h : heldOn s (n + 1) = true)
    (k : Word → State → Out) : seq (pop s) k = k (stackWord s 0) (s.setSp (s.regs.sp + 2)) :=
  (PopsFrom.start hu).seq_pop h (by omega) k

theorem seq_pop_second {s : State} {n : Nat} (hu : s.undisturbed = true) (h : heldOn s (n + 2) = true)
    (k : Word → State → Out) :
    seq (pop (s.setSp (s.regs.sp + 2))) k = k (stackWord s 1) (s.setSp (s.regs.sp + 2 + 2)) :=
  (PopsFrom.start hu).succ.seq_pop h (by omega) k

theorem seq_pop_third {s : State} {n : Nat} (hu : s.undisturbed = true) (h : heldOn s (n + 3) = true)
    (k : Word → State → Out) :
    seq (pop (s.setSp (s.regs.sp + 2 + 2))) k = k (stackWord s 2) (s.setSp (s.regs.sp + 2 + 2 + 2)) :=
  (PopsFrom.start hu).succ.succ.seq_pop h (by omega) k

theorem add_two_two (x : Word) : x + 2 + 2 = x + 4 := by rw [BitVec.add_assoc]; rfl

theorem add_two_two_two (x : Word) : x + 2 + 2 + 2 = x + 6 := by rw [BitVec.add_assoc, BitVec.add_assoc]; rfl

theorem exec_retNear {s : State} (hu : s.undisturbed = true) (h : heldOn s 1 = true) :
    exec .retNear s = .next ((s.setSp (s.regs.sp + 2)).jump (stackWord s 0)) :=
  seq_pop_first hu h _

theorem exec_retNearImm {s : State} (hu : s.undisturbed = true) (h : heldOn s 1 = true) (k : Word) :
    exec (.retNearImm k) s = .next ((s.setSp (s.regs.sp + 2 + k)).jump (stackWord s 0)) :=
  seq_pop_first hu h _

theorem exec_retFar {s : State} (hu : s.undisturbed = true) (h : heldOn s 2 = true) :
    exec .retFar s = .next ((s.setSp (s.regs.sp + 4)).farJump (stackWord s 1) (stackWord s 0)) := by
  rw [← add_two_two]
  exact (seq_pop_first hu h _).trans (seq_pop_second hu h _)

theorem exec_retFarImm {s : State} (hu : s.undisturbed = true) (h : heldOn s 2 = true) (k : Word) :
    exec (.retFarImm k) s = .next ((s.setSp (s.regs.sp + 4 + k)).farJump (stackWord s 1) (stackWord s 0)) := by
  rw [← add_two_two]
  exact (seq_pop_first hu h _).trans (seq_pop_second hu h _)

/-! ### A return undoes a call -/

theorem roomFor_one {s : State} (h : plain s .word s.segs.ss (s.regs.sp - 2) = true) : roomFor s 1 = true := by
  rw [roomFor, roomFor, Bool.and_true]
  exact h

theorem retNear_of_callNear {s : State} (hu : s.undisturbed = true) (hwf : s.mem.wf = true)
    (h : plain s .word s.segs.ss (s.regs.sp - 2) = true) (target : Word) :
    ∃ u, exec .retNear ((pushed s s.ip).jump target) = .next u ∧ u.ip = s.ip ∧ u.regs = s.regs ∧ u.segs = s.segs ∧
      u.flags = s.flags := by
  have hroom := roomFor_one h
  have hheld : heldOn ((pushes s [s.ip]).jump target) 1 = true :=
    (heldOn_congr 1).trans (heldOn_pushes (l := [s.ip]) hroom)
  have hret : stackWord (pushed s s.ip) 0 = s.ip := stackWord_pushed_zero hwf s.ip
  refine ⟨_, exec_retNear (s := (pushed s s.ip).jump target) hu hheld, hret, ?_, rfl, rfl⟩
  show { s.regs with sp := s.regs.sp - 2 + 2 } = s.regs
  rw [BitVec.sub_add_cancel]

theorem retFar_of_callFar {s : State} (hu : s.undisturbed = true) (hwf : s.mem.wf = true) (h : roomFor s 2 = true)
    (off seg : Word) :
    ∃ u, exec .retFar ((pushed (pushed s s.segs.cs) s.ip).farJump seg off) = .next u ∧ u.ip = s.ip ∧ u.regs = s.regs ∧
      u.segs = s.segs ∧ u.flags = s.flags := by
  have hheld : heldOn ((pushes s [s.ip, s.segs.cs]).farJump seg off) 2 = true :=
    (heldOn_congr 2).trans (heldOn_pushes (l := [s.ip, s.segs.cs]) h)
  have hword {k : Nat} (hk : k < 2) : stackWord (pushes s [s.ip, s.segs.cs]) k = [s.ip, s.segs.cs][k] :=
    stackWord_pushes (l := [s.ip, s.segs.cs]) hwf (by simp) h hk
  have hip : stackWord (pushed (pushed s s.segs.cs) s.ip) 0 = s.ip := hword (by decide)
  have hcs : stackWord (pushed (pushed s s.segs.cs) s.ip) 1 = s.segs.cs := hword (by decide)
  refine ⟨_, exec_retFar (s := (pushed (pushed s s.segs.cs) s.ip).farJump seg off) hu hheld, hip, ?_, ?_, rfl⟩
  · show { s.regs with sp := s.regs.sp - 2 - 2 + 4 } = s.regs
    rw [BitVec.sub_sub, show (2 : Word) + 2 = 4 from rfl, BitVec.sub_add_cancel]
  · exact congrArg (fun cs => { s.segs with cs := cs }) hcs

/-- Settles O36. -/
theorem callReturnResults : Obligations.CallReturnResults := by
  intro s hu
  refine ⟨fun h => ⟨exec_callNear hu h, fun _ hrm => exec_callNearRm hu h hrm⟩,
    fun h => ⟨fun _ _ => callFarTo_plain hu h, fun _ hmem => exec_callFarMem hu h hmem⟩,
    fun h => ⟨exec_retNear hu h, exec_retNearImm hu h⟩, fun h => ⟨exec_retFar hu h, exec_retFarImm hu h⟩,
    fun d hwf h => ?_, fun off seg hwf h => ?_⟩
  · obtain ⟨u, hret, hu'⟩ := retNear_of_callNear hu hwf h (s.ip + d)
    exact ⟨_, u, exec_callNear hu h d, rfl, hret, hu'⟩
  · obtain ⟨u, hret, hu'⟩ := retFar_of_callFar hu hwf h off seg
    exact ⟨_, u, callFarTo_plain hu h, rfl, rfl, hret, hu'⟩

/-! ### The interrupt sequence -/

/-- The sequence pushes FLAGS as it was, CS and the return offset, with IF and TF clear from then on (R470). -/
theorem interrupted_eq (s : State) (n : Byte) (ret : Word) :
    interrupted s n ret =
      ((pushes s.maskTraps [ret, s.segs.cs, s.flags.image]).farJump (s.loadWord ((n.setWidth 20 <<< 2) + 2))
        (s.loadWord (n.setWidth 20 <<< 2))).leaveInstruction := rfl

/-- The table entry of type n is at 4 n (R462). -/
theorem vector_addr (n : Byte) : (n.setWidth 20 <<< 2 : Addr) = BitVec.ofNat 20 (4 * n.toNat) := by
  refine BitVec.eq_of_toNat_eq ?_
  rw [BitVec.toNat_shiftLeft, BitVec.toNat_setWidth, BitVec.toNat_ofNat, Nat.shiftLeft_eq]
  omega

theorem vector_addr_two (n : Byte) : (n.setWidth 20 <<< 2 : Addr) + 2 = BitVec.ofNat 20 (4 * n.toNat + 2) := by
  rw [vector_addr, BitVec.ofNat_add]
  rfl

theorem interrupted_regs (s : State) (n : Byte) (ret : Word) :
    (interrupted s n ret).regs = { s.regs with sp := s.regs.sp - 6 } := by
  rw [interrupted_eq]
  exact pushes_regs (s := s.maskTraps) (l := [ret, s.segs.cs, s.flags.image])

theorem stackWord_interrupted {s : State} (hwf : s.mem.wf = true) (h : roomFor s 3 = true) (n : Byte) (ret : Word)
    {k : Nat} (hk : k < 3) : stackWord (interrupted s n ret) k = [ret, s.segs.cs, s.flags.image][k] :=
  stackWord_pushes (s := s.maskTraps) (l := [ret, s.segs.cs, s.flags.image]) hwf (by simp) h hk

theorem heldOn_interrupted {s : State} (h : roomFor s 3 = true) (n : Byte) (ret : Word) :
    heldOn (interrupted s n ret) 3 = true := by
  have hroom : roomFor s.maskTraps 3 = true := h
  rw [interrupted_eq]
  exact (heldOn_congr 3).trans (heldOn_pushes (l := [ret, s.segs.cs, s.flags.image]) hroom)

theorem loadByte_interrupted {s : State} (h : roomFor s 3 = true) (n : Byte) (ret : Word) {a : Addr}
    (ha : ∀ k, k < 6 → a ≠ phys s.segs.ss (s.regs.sp - 6 + BitVec.ofNat 16 k)) :
    (interrupted s n ret).loadByte a = s.loadByte a :=
  loadByte_pushes_above (s := s.maskTraps) (l := [ret, s.segs.cs, s.flags.image]) rfl h ha

/-- Settles O38. -/
theorem interruptSequence : Obligations.InterruptSequence := by
  intro s n ret hwf hu hv h
  have hword {k : Nat} (hk : k < 3) := stackWord_interrupted hwf h n ret hk
  refine ⟨_, interrupt_plain hu hv h, ?_, ?_, interrupted_regs s n ret, hword (by decide), hword (by decide),
    hword (by decide), rfl, rfl, fun a ha => loadByte_interrupted h n ret ha⟩
  · rw [← vector_addr]
    rfl
  · rw [← vector_addr_two]
    rfl

/-! ### IRET -/

theorem exec_iret {s : State} (hu : s.undisturbed = true) (h : heldOn s 3 = true) :
    exec .iret s =
      .next (({ s with
        regs := { s.regs with sp := s.regs.sp + 6 }
        flags := Flags.ofImage (stackWord s 2)
        intc := { s.intc with dhlt := false } }).farJump (stackWord s 1) (stackWord s 0)) := by
  rw [← add_two_two_two]
  exact (seq_pop_first hu h _).trans ((seq_pop_second hu h _).trans (seq_pop_third hu h _))

/-- An interrupt drops the prefixes, and so leaves a bus undisturbed that no LOCK was keeping so. -/
theorem interrupted_undisturbed {s : State} (hlock : s.pfx.lock = false) (hu : s.undisturbed = true) (n : Byte)
    (ret : Word) : (interrupted s n ret).undisturbed = true := by
  rw [State.undisturbed, hlock] at hu
  exact hu

theorem iret_of_interrupted {s : State} (hu : s.undisturbed = true) (hwf : s.mem.wf = true) (hlock : s.pfx.lock = false)
    (h : roomFor s 3 = true) (n : Byte) (ret : Word) :
    ∃ u, exec .iret (interrupted s n ret) = .next u ∧ u.ip = ret ∧ u.regs = s.regs ∧ u.segs = s.segs ∧
      u.flags = s.flags := by
  have hheld : heldOn (interrupted s n ret) 3 = true := heldOn_interrupted h n ret
  have hword {k : Nat} (hk : k < 3) := stackWord_interrupted hwf h n ret hk
  refine ⟨_, exec_iret (interrupted_undisturbed hlock hu n ret) hheld, hword (by decide), ?_, ?_, ?_⟩
  · show { (interrupted s n ret).regs with sp := (interrupted s n ret).regs.sp + 6 } = s.regs
    rw [interrupted_regs]
    exact congrArg (fun sp => { s.regs with sp := sp }) (BitVec.sub_add_cancel s.regs.sp 6)
  · exact congrArg (fun cs => { s.segs with cs := cs }) (hword (show 1 < 3 by decide))
  · show Flags.ofImage (stackWord (interrupted s n ret) 2) = s.flags
    rw [hword (by decide)]
    exact Flags.ofImage_image s.flags

/-- Settles O39. -/
theorem interruptReturn : Obligations.InterruptReturn := by
  intro s hu
  refine ⟨exec_iret hu, fun n ret hwf hlock hv h => ?_⟩
  obtain ⟨u, hiret, hsame⟩ := iret_of_interrupted hu hwf hlock h n ret
  exact ⟨_, u, interrupt_plain hu hv h, hiret, hsame⟩

/-! ### INT, INTO, ESC -/

theorem exec_esc_et {s : State} (h : s.reloc.getLsbD 15 = true) (ttt lll : BitVec 3) (rm : RM) :
    exec (.esc ttt lll rm) s = interrupt 7 s.ipStart s := by
  show execEsc ttt lll rm s = _
  unfold execEsc
  rw [if_pos h]

theorem exec_esc_plain {s : State} (h : s.reloc.getLsbD 15 = false) (hu : s.undisturbed = true) {rm : RM}
    (hrm : plainLoc s .word (s.locate rm) = true) (ttt lll : BitVec 3) : exec (.esc ttt lll rm) s = .next s := by
  show execEsc ttt lll rm s = _
  unfold execEsc
  rw [h, if_neg Bool.false_ne_true]
  cases rm with
  | reg r => rfl
  | mem m => exact seq_readRM_plain hu hrm _

theorem exec_into_of {s : State} (h : s.flags.ofl = true) : exec .into s = interrupt 4 s.ip s := by
  show execInto s = _
  rw [execInto, if_pos h]

theorem exec_into_not {s : State} (h : s.flags.ofl = false) : exec .into s = .next s := by
  show execInto s = _
  rw [execInto, h, if_neg Bool.false_ne_true]

/-- Settles O37. -/
theorem interruptInstructions : Obligations.InterruptInstructions := by
  intro s
  refine ⟨fun hu h => ⟨fun n hv => interrupt_plain hu hv h, fun hv => interrupt_plain hu hv h, fun hv hof => ?_,
    fun ttt lll rm hv het => ?_⟩, fun _ _ _ _ => rfl, exec_into_not, fun ttt lll rm het hu hrm => ?_⟩
  · rw [exec_into_of hof, interrupt_plain hu hv h]
  · rw [exec_esc_et het, interrupt_plain hu hv h]
  · exact exec_esc_plain het hu hrm ttt lll

/-! ### Divide errors -/

theorem divideError_plain {s : State} (hu : s.undisturbed = true) (hv : plainVector s 0 = true)
    (h : roomFor s 3 = true) : divideError s = .next (interrupted s 0 s.ip).divFlags := by
  rw [divideError, interrupt_plain hu hv h, andThen_next]

theorem toInt_eq_zero_iff {n : Nat} (x : BitVec n) : x.toInt = 0 ↔ x.toNat = 0 := by
  rw [← BitVec.toInt_zero (w := n), BitVec.toInt_inj, ← BitVec.toNat_inj, BitVec.toNat_zero]

theorem divide_error {s : State} {w : Width} {v : BitVec w.bits}
    (h : v.toNat = 0 ∨ 2 ^ w.bits ≤ s.dividend w / v.toNat) : divide w v s = divideError s := by
  rw [divide, if_pos h]

theorem divideSigned_error {s : State} {w : Width} {v : BitVec w.bits}
    (h : v.toNat = 0 ∨ (s.dividendSigned w).tdiv v.toInt < -2 ^ (w.bits - 1) ∨
      2 ^ (w.bits - 1) ≤ (s.dividendSigned w).tdiv v.toInt) : divideSigned w v s = divideError s := by
  rw [← toInt_eq_zero_iff] at h
  rw [divideSigned, if_pos h]

/-- Settles O27. -/
theorem divideErrorTraps : Obligations.DivideErrorTraps := by
  intro s w rm hu hrm hv h
  refine ⟨fun hq => ?_, fun hq => ?_⟩
  · show seq (readRM w rm s) _ = _
    rw [seq_readRM_plain hu hrm, divide_error hq, divideError_plain hu hv h]
  · show seq (readRM w rm s) _ = _
    rw [seq_readRM_plain hu hrm, divideSigned_error hq, divideError_plain hu hv h]

/-! ### LEAVE and BOUND -/

theorem exec_leave {s : State} (hu : s.undisturbed = true) (h : plain s .word s.segs.ss s.regs.bp = true) :
    exec .leave s =
      .next { s with regs := { s.regs with sp := s.regs.bp + 2
                                           bp := s.loadWord (phys s.segs.ss s.regs.bp) } } := by
  show seq (pop (s.setSp s.regs.bp)) _ = _
  rw [seq_pop_plain (s := s.setSp s.regs.bp) hu h, stackWord_zero]
  rfl

theorem outOfBounds_iff (i lower upper : Word) :
    Machine.outOfBounds i lower upper = true ↔ i.toInt < lower.toInt ∨ upper.toInt < i.toInt := by
  rw [Machine.outOfBounds, Bool.or_eq_true, BitVec.slt_iff_toInt_lt, BitVec.slt_iff_toInt_lt]

theorem exec_bound {s : State} (hu : s.undisturbed = true) {mem : MemRef}
    (h1 : plain s .word (s.memSeg mem) (s.ea mem) = true) (h2 : plain s .word (s.memSeg mem) (s.ea mem + 2) = true)
    (reg : Reg) :
    exec (.bound reg mem) s =
      if outOfBounds (s.getReg .word reg) (s.loadWord (phys (s.memSeg mem) (s.ea mem)))
        (s.loadWord (phys (s.memSeg mem) (s.ea mem + 2))) then interrupt 5 s.ip s else .next s := by
  show seq (readSeg .word (s.memSeg mem) (s.ea mem) s) _ = _
  rw [readSeg_plain hu h1, seq_next, readSeg_plain hu h2, seq_next]
  rfl

/-- Settles O41. -/
theorem leaveAndBoundResults : Obligations.LeaveAndBoundResults := by
  intro s hu
  refine ⟨exec_leave hu, fun reg mem h1 h2 => ⟨fun hin => ?_, fun hout hv h => ?_⟩⟩
  · rw [exec_bound hu h1 h2, if_neg]
    rw [outOfBounds_iff]
    omega
  · rw [exec_bound hu h1 h2, if_pos ((outOfBounds_iff _ _ _).2 hout), interrupt_plain hu hv h]

end Sys2Proof.Proofs
end

section
/-! Processor control, jumps, prefixes, string instructions. -/

namespace Sys2Proof.Proofs

open Sys2Proof.Machine Sys2Proof.Safety

/-! ### Processor control -/

theorem exec_sti (s : State) :
    exec .sti s = .next { s with flags := { s.flags with ifl := true }
                                 inhibitInt := s.inhibitInt || !s.flags.ifl } := rfl

theorem exec_sti_of_ifl {s : State} (h : s.flags.ifl = true) : exec .sti s = .next s := by
  have hflags : { s.flags with ifl := true } = s.flags := by rw [← h]
  rw [exec_sti, h, hflags, Bool.not_true, Bool.or_false]

theorem exec_sti_of_not_ifl {s : State} (h : s.flags.ifl = false) :
    exec .sti s = .next { s with flags := { s.flags with ifl := true }, inhibitInt := true } := by
  rw [exec_sti, h, Bool.not_false, Bool.or_true]

theorem exec_wait (s : State) :
    exec .wait s = .next { s with activity := if s.pins.test then .waiting else .running } := rfl

/-- Settles O42. -/
theorem processorControlResults : Obligations.ProcessorControlResults := by
  refine fun s => ⟨rfl, rfl, rfl, rfl, rfl, rfl, exec_sti_of_ifl, exec_sti_of_not_ifl, rfl, fun h => ?_, fun h => ?_⟩
  · rw [exec_wait, h, if_neg Bool.false_ne_true]
  · rw [exec_wait, h, if_pos rfl]

/-! ### Jumps -/

theorem jumpIf_eq_jumped (cond : Bool) (d : Byte) (s : State) : jumpIf cond d s = .next (jumped s cond d) := rfl

theorem beq_eq_not_xor (a b : Bool) : (a == b) = !(a ^^ b) := by cases a <;> cases b <;> rfl

theorem bne_eq_xor (a b : Bool) : (a != b) = (a ^^ b) := by cases a <;> cases b <;> rfl

theorem sub_one_ne_zero_iff (x : Word) : x - 1 ≠ 0 ↔ x ≠ 1 := not_congr (by bv_omega)

theorem exec_jnl (s : State) (d : Byte) : exec (.jnl d) s = .next (jumped s (!(s.flags.sf ^^ s.flags.ofl)) d) := by
  rw [← beq_eq_not_xor]
  rfl

theorem exec_jnle (s : State) (d : Byte) :
    exec (.jnle d) s = .next (jumped s (!s.flags.zf && !(s.flags.sf ^^ s.flags.ofl)) d) := by
  rw [← beq_eq_not_xor]
  rfl

theorem exec_jl (s : State) (d : Byte) : exec (.jl d) s = .next (jumped s (s.flags.sf ^^ s.flags.ofl) d) := by
  rw [← bne_eq_xor]
  rfl

theorem exec_jle (s : State) (d : Byte) :
    exec (.jle d) s = .next (jumped s (s.flags.zf || (s.flags.sf ^^ s.flags.ofl)) d) := by
  rw [← bne_eq_xor]
  rfl

/-- The test of the loops: CX after it counts down is not 0. -/
theorem countDown_ne_zero (s : State) : decide (s.countDown.regs.cx ≠ 0) = decide (s.regs.cx ≠ 1) :=
  decide_eq_decide.2 (sub_one_ne_zero_iff s.regs.cx)

theorem jumpIf_countDown (s : State) (also : Bool) (d : Byte) :
    jumpIf (decide (s.countDown.regs.cx ≠ 0) && also) d s.countDown =
      .next (jumped s.countDown (decide (s.regs.cx ≠ 1) && also) d) := by
  rw [countDown_ne_zero, jumpIf_eq_jumped]

theorem exec_loop (s : State) (d : Byte) :
    exec (.loop d) s = .next (jumped s.countDown (decide (s.regs.cx ≠ 1)) d) := by
  have h := jumpIf_countDown s true d
  rwa [Bool.and_true, Bool.and_true] at h

theorem exec_jmpNearRm {s : State} (hu : s.undisturbed = true) {rm : RM} (hrm : plainLoc s .word (s.locate rm) = true) :
    exec (.jmpNearRm rm) s = .next (s.jump (valueOf s .word (s.locate rm))) :=
  seq_readRM_plain hu hrm _

theorem exec_jmpFarMem {s : State} (hu : s.undisturbed = true) {mem : MemRef}
    (h : plainPointer s (s.memSeg mem) (s.ea mem) = true) :
    exec (.jmpFarMem mem) s =
      .next (s.farJump (s.loadWord (phys (s.memSeg mem) (s.ea mem + 2)))
        (s.loadWord (phys (s.memSeg mem) (s.ea mem)))) := by
  show seq (readPointer (s.memSeg mem) (s.ea mem) s) _ = _
  rw [readPointer_plain hu h]
  rfl

/-- Settles O34. -/
theorem jumpResults : Obligations.JumpResults := fun s d =>
  ⟨rfl, rfl, rfl, rfl, rfl, rfl, rfl, rfl, rfl, rfl, rfl, rfl, exec_jl s d, exec_jnl s d, exec_jle s d, exec_jnle s d,
    exec_loop s d, jumpIf_countDown s s.flags.zf d, jumpIf_countDown s (!s.flags.zf) d, rfl, fun _ => rfl, fun _ => rfl,
    fun _ hu hrm => exec_jmpNearRm hu hrm, fun _ _ => rfl, fun _ hu h => exec_jmpFarMem hu h⟩

/-! ### Strings -/

theorem delta_eq_stride (s : State) (w : Width) : s.delta w = stride s w := by
  unfold State.delta stride
  cases w <;> cases s.flags.df <;> rfl

theorem stride_congr {s t : State} (h : t.flags.df = s.flags.df) (w : Width) : stride t w = stride s w := by
  unfold stride
  rw [h]

theorem storeAt_regs (s : State) (w : Width) (a : Addr) (v : BitVec w.bits) : (storeAt s w a v).regs = s.regs := by
  cases w <;> rfl

theorem storeAt_flags (s : State) (w : Width) (a : Addr) (v : BitVec w.bits) : (storeAt s w a v).flags = s.flags := by
  cases w <;> rfl

/-- What a port presents draws free values and changes nothing else. -/
theorem portValue_drawn (s : State) (w : Width) (p : Word) : ∃ n, (portValue s w p).2 = s.drawn n := by
  have hbyte (t : State) (q : Word) : ∃ n, (t.devicePort q).2 = t.drawn n := by
    unfold State.devicePort
    split
    · exact ⟨0, rfl⟩
    · exact ⟨1, rfl⟩
  cases w with
  | byte => exact hbyte s p
  | word =>
    obtain ⟨m, hm⟩ := hbyte s p
    obtain ⟨n, hn⟩ := hbyte (s.devicePort p).2 (p + 1)
    refine ⟨m + n, hn.trans ?_⟩
    rw [hm]
    exact congrArg (fun free => { s with free := free }) (Nat.add_assoc _ _ _)

/-- The pointers go on as the element found them, whatever it did to the rest of the state. -/
theorem stepSi_eq {s u : State} (hsi : u.regs.si = s.regs.si) (hdf : u.flags.df = s.flags.df) (w : Width) :
    u.stepSi w = u.setSi (s.regs.si + stride s w) := by
  rw [State.stepSi, delta_eq_stride, hsi, stride_congr hdf]

theorem stepDi_eq {s u : State} (hdi : u.regs.di = s.regs.di) (hdf : u.flags.df = s.flags.df) (w : Width) :
    u.stepDi w = u.setDi (s.regs.di + stride s w) := by
  rw [State.stepDi, delta_eq_stride, hdi, stride_congr hdf]

/-- What one element of each string instruction runs. -/
def stringElement : StringOp → Width → State → Out
  | .movs => movsElement
  | .cmps => cmpsElement
  | .scas => scasElement
  | .lods => lodsElement
  | .stos => stosElement
  | .ins => insElement
  | .outs => outsElement

theorem exec_stringInstr (op : StringOp) (w : Width) (s : State) :
    exec (stringInstr op w) s = repeated op w (stringElement op) s := by
  cases op <;> rfl

theorem setAcc_si (s : State) (w : Width) (v : BitVec w.bits) : (s.setAcc w v).regs.si = s.regs.si := by
  cases w <;> rfl

theorem setAcc_df (s : State) (w : Width) (v : BitVec w.bits) : (s.setAcc w v).flags.df = s.flags.df := by
  cases w <;> rfl

theorem movsElement_plain {s : State} {w : Width} (hu : s.undisturbed = true)
    (hsrc : plain s w (s.segment .ds) s.regs.si = true) (hdst : plain s w s.segs.es s.regs.di = true) :
    movsElement w s = .next (elementDone s .movs w) := by
  rw [movsElement, readSource, readSeg_plain hu hsrc, seq_next, writeDest, writeSeg_plain hu hdst, andThen_next,
    stepSi_eq (s := s) (by rw [storeAt_regs]) (by rw [storeAt_flags]),
    stepDi_eq (s := s) (by rw [State.setSi, storeAt_regs]) (by rw [State.setSi, storeAt_flags])]
  rfl

theorem cmpsElement_plain {s : State} {w : Width} (hu : s.undisturbed = true)
    (hsrc : plain s w (s.segment .ds) s.regs.si = true) (hdst : plain s w s.segs.es s.regs.di = true) :
    cmpsElement w s = .next (elementDone s .cmps w) := by
  rw [cmpsElement, readSource, readSeg_plain hu hsrc, seq_next, readDest, readSeg_plain hu hdst, seq_next,
    stepSi_eq (s := s) (by rfl) (by rfl), stepDi_eq (s := s) (by rfl) (by rfl)]
  rfl

theorem scasElement_plain {s : State} {w : Width} (hu : s.undisturbed = true)
    (hdst : plain s w s.segs.es s.regs.di = true) : scasElement w s = .next (elementDone s .scas w) := by
  rw [scasElement, readDest, readSeg_plain hu hdst, seq_next, stepDi_eq (s := s) (by rfl) (by rfl)]
  rfl

theorem lodsElement_plain {s : State} {w : Width} (hu : s.undisturbed = true)
    (hsrc : plain s w (s.segment .ds) s.regs.si = true) : lodsElement w s = .next (elementDone s .lods w) := by
  rw [lodsElement, readSource, readSeg_plain hu hsrc, seq_next, stepSi_eq (s := s) (setAcc_si _ _ _) (setAcc_df _ _ _)]
  rfl

theorem stosElement_plain {s : State} {w : Width} (hu : s.undisturbed = true)
    (hdst : plain s w s.segs.es s.regs.di = true) : stosElement w s = .next (elementDone s .stos w) := by
  rw [stosElement, writeDest, writeSeg_plain hu hdst, andThen_next,
    stepDi_eq (s := s) (by rw [storeAt_regs]) (by rw [storeAt_flags])]
  rfl

theorem insElement_plain {s : State} {w : Width} (hu : s.undisturbed = true)
    (hport : plainPort s w s.regs.dx = true) (hdst : plain s w s.segs.es s.regs.di = true) :
    insElement w s = .next (elementDone s .ins w) := by
  obtain ⟨n, hdrawn⟩ := portValue_drawn s w s.regs.dx
  rw [insElement, ioRead_plain hu hport]
  show andThen (writeDest w (portValue s w s.regs.dx).1 (portValue s w s.regs.dx).2) _ = _
  have hdst' : plain (s.drawn n) w (s.drawn n).segs.es (s.drawn n).regs.di = true :=
    (plain_congr (s := s) rfl w _ _).trans hdst
  rw [elementDone, hdrawn, writeDest, writeSeg_plain (s := s.drawn n) hu hdst', andThen_next,
    stepDi_eq (s := s) (by rw [storeAt_regs]; rfl) (by rw [storeAt_flags]; rfl)]
  rfl

theorem outsElement_plain {s : State} {w : Width} (hu : s.undisturbed = true)
    (hsrc : plain s w (s.segment .ds) s.regs.si = true) (hport : plainPort s w s.regs.dx = true) :
    outsElement w s = .next (elementDone s .outs w) := by
  rw [outsElement, readSource, readSeg_plain hu hsrc, seq_next, ioWrite_plain hu hport, andThen_next,
    stepSi_eq (s := s) (by rfl) (by rfl)]
  rfl

theorem stringElement_plain {s : State} {op : StringOp} {w : Width} (hu : s.undisturbed = true)
    (h : elementHeld s op w = true) : stringElement op w s = .next (elementDone s op w) := by
  cases op with
  | movs =>
    obtain ⟨hsrc, hdst⟩ := Bool.and_eq_true_iff.1 h
    exact movsElement_plain hu hsrc hdst
  | cmps =>
    obtain ⟨hsrc, hdst⟩ := Bool.and_eq_true_iff.1 h
    exact cmpsElement_plain hu hsrc hdst
  | scas => exact scasElement_plain hu h
  | lods => exact lodsElement_plain hu h
  | stos => exact stosElement_plain hu h
  | ins =>
    obtain ⟨hport, hdst⟩ := Bool.and_eq_true_iff.1 h
    exact insElement_plain hu hport hdst
  | outs =>
    obtain ⟨hsrc, hport⟩ := Bool.and_eq_true_iff.1 h
    exact outsElement_plain hu hsrc hport

theorem setAcc_cx (s : State) (w : Width) (v : BitVec w.bits) : (s.setAcc w v).regs.cx = s.regs.cx := by
  cases w <;> rfl

theorem portValue_regs (s : State) (w : Width) (p : Word) : (portValue s w p).2.regs = s.regs := by
  obtain ⟨n, hdrawn⟩ := portValue_drawn s w p
  rw [hdrawn]
  rfl

/-- An element leaves CX as it is: the repetition counts it. -/
theorem elementDone_cx (s : State) (op : StringOp) (w : Width) : (elementDone s op w).regs.cx = s.regs.cx := by
  cases op with
  | movs =>
    show (putElement s w (sourceElement s w)).regs.cx = _
    rw [putElement, storeAt_regs]
  | cmps => rfl
  | scas => rfl
  | lods => exact setAcc_cx s w _
  | stos =>
    show (putElement s w (s.acc w)).regs.cx = _
    rw [putElement, storeAt_regs]
  | ins =>
    show (putElement (portValue s w s.regs.dx).2 w (portValue s w s.regs.dx).1).regs.cx = _
    rw [putElement, storeAt_regs, portValue_regs]
  | outs => rfl

theorem decide_ne_eq_bne (a b : Bool) : decide (a ≠ b) = (a != b) := by cases a <;> cases b <;> rfl

theorem sub_one_eq_zero_iff (x : Word) : x - 1 = 0 ↔ x = 1 := by bv_omega

/-- The end of one element: CX as the repetition counts it, and whether it goes on. -/
theorem nextElement_setCx (op : StringOp) (w : Width) (z : Bool) (e : State) (x : Word) :
    nextElement op w z (e.setCx (x - 1)) =
      { e with
        regs := { e.regs with cx := x - 1 }
        activity := if decide (x = 1) || ((decide (op = .cmps) || decide (op = .scas)) && (e.flags.zf != z))
          then .running else .repeating op w } := by
  rw [← decide_ne_eq_bne, ← decide_eq_decide.2 (sub_one_eq_zero_iff x)]
  rfl

/-- Settles O33. -/
theorem stringResults : Obligations.StringResults := by
  intro s op w hu
  refine ⟨fun hrep hheld => ?_, fun z hrep => ⟨fun hcx => ?_, fun hcx hheld => ?_⟩⟩
  · rw [exec_stringInstr, repeated, hrep]
    exact stringElement_plain hu hheld
  · rw [exec_stringInstr, repeated, hrep]
    exact if_pos hcx
  · rw [exec_stringInstr, repeated, hrep]
    dsimp only
    rw [if_neg hcx, stringElement_plain hu hheld, andThen_next, elementDone_cx, nextElement_setCx]

end Sys2Proof.Proofs
end

section
/-! Steps: a turn of the CPU, its boundary, what a step that fetches nothing does, prefixes. -/

namespace Sys2Proof.Proofs

open Sys2Proof.Machine Sys2Proof.Safety

/-! ### The CPU's turn -/

theorem fetchesRefused_same {s t : State} (n : Nat) (reloc : t.reloc = s.reloc := by rfl)
    (segs : t.segs = s.segs := by rfl) (ip : t.ip = s.ip := by rfl) (memMap : t.memMap = s.memMap := by rfl) :
    t.fetchesRefused n = s.fetchesRefused n :=
  fetchesRefused_congr reloc segs ip memMap

theorem setAgenda_nil {s : State} (h : s.agenda = []) : s.setAgenda [] = s := by
  rw [State.setAgenda, ← h]

theorem step_of_cpu {s : State} {rest : List Turn} (h : s.agenda = .cpu :: rest) :
    step s = endedByRes (cpuTurn (s.setAgenda rest)) := step_of_agenda_cons h

theorem locked_eq_false_of_running {s : State} (h : s.activity = .running) : s.locked = false := by
  rw [State.locked, h]
  exact Bool.and_false _

/-- Without an agenda the CPU moves where no channel of the DMA unit may. -/
theorem defaultTurn_cpu {s : State} (hg : s.granted = false) (hr : s.activity = .running)
    (h : s.dma.yielded = true ∨ s.dmaNext = none) : defaultTurn s = cpuTurn s := by
  unfold defaultTurn
  rw [hg, locked_eq_false_of_running hr, Bool.false_or, Bool.false_or]
  split
  · rfl
  next hy =>
    obtain hyielded | hnext := h
    · exact absurd hyielded hy
    · rw [hnext]

theorem step_of_no_agenda {s : State} (h : s.agenda = []) (hg : s.granted = false) (hr : s.activity = .running)
    (hd : s.dma.yielded = true ∨ s.dmaNext = none) : step s = endedByRes (cpuTurn (s.setAgenda [])) := by
  rw [setAgenda_nil h, ← defaultTurn_cpu hg hr hd]
  simp only [step, machineStep, h]

/-- Settles O3. -/
theorem stepRunsDecoded : Obligations.StepRunsDecoded := by
  intro s rest i n hagenda hg hdue hr hdec hfetch hrep u
  have hstep : step s = endedByRes (cpuTurn (s.setAgenda rest)) := by
    obtain h | ⟨h, rfl, hd⟩ := hagenda
    · exact step_of_cpu h
    · exact step_of_no_agenda h hg hr hd
  rw [hstep]
  exact congrArg endedByRes (cpuTurn_instr (s := s.setAgenda rest) hg hdue hr hdec
    ((fetchesRefused_same _).trans hfetch) hrep)

/-! ### A step that fetches nothing -/

theorem cpuTurn_moves {s : State} (hg : s.granted = false) (hdue : s.due = none) : cpuTurn s = cpuMove s.takeBus := by
  have hdue' : s.takeBus.due = none := hdue
  rw [cpuTurn, hg, if_neg Bool.false_ne_true, cpuStep, hdue']

theorem cpuMove_halted {s : State} (h : s.activity = .halted) : cpuMove s = boundary false false s := by
  rw [cpuMove, h]

theorem cpuMove_waiting {s : State} (h : s.activity = .waiting) :
    cpuMove s = andThen (exec .wait s) fun t => boundary s.flags.tf true t.endInstruction := by
  rw [cpuMove, h]
  rfl

theorem isPrefix_stringInstr (op : StringOp) (w : Width) : isPrefix (stringInstr op w) = false := by
  cases op <;> rfl

theorem stringInstr_ne_wait (op : StringOp) (w : Width) : decide (stringInstr op w = .wait) = false := by
  cases op <;> rfl

theorem cpuMove_repeating {s : State} {op : StringOp} {w : Width} (h : s.activity = .repeating op w) :
    cpuMove s =
      andThen (exec (stringInstr op w) s) fun t => boundary s.flags.tf false t.endInstruction := by
  rw [cpuMove, h]
  dsimp only
  rw [runInstr, isPrefix_stringInstr, stringInstr_ne_wait, if_neg Bool.false_ne_true]

theorem cpuMove_running {s : State} (h : s.activity = .running) : cpuMove s = fetchAndRun s := by
  rw [cpuMove, h]

/-- The marks that a fetch makes: the start of the instruction, and the free values drawn. -/
theorem markStart_fetched_eq (s : State) :
    ∃ start drawn, s.markStart.fetched = { s with ipStart := start, free := drawn } := by
  unfold State.fetched State.markStart
  split <;> split <;> exact ⟨_, _, rfl⟩

theorem interrupts_quiet {s : State} {t wait : Bool} (hn : s.nmiLatch = false)
    (hm : s.flags.ifl = false ∨ s.inhibitInt = true ∨ s.presents = false) (ht : (t && !wait) = false) :
    s.interrupts t wait = false := by
  have hmask : (s.flags.ifl && !s.inhibitInt && s.presents) = false := by
    obtain h | h | h := hm <;> simp [h]
  rw [State.interrupts, hn, hmask, ht]
  rfl

theorem takeHardware_quiet {s : State} {hold : Bool} (hn : s.nmiLatch = false)
    (hm : s.flags.ifl = false ∨ hold = true ∨ s.presents = false) : takeHardware hold s = .next s := by
  have hmask : (s.flags.ifl && !hold && s.presents) = false := by
    obtain h | h | h := hm <;> simp [h]
  rw [takeHardware, hn, if_neg Bool.false_ne_true, hmask, if_neg Bool.false_ne_true]

/-- A boundary with the bus, or with nothing to wait for it for. -/
theorem boundary_proceeds {s : State} {t wait : Bool} (h : s.pins.hold = false ∨ s.interrupts t wait = false)
    (hi : s.inhibit = false) :
    boundary t wait s =
      andThen (takeHardware s.inhibitInt { s with inhibitInt := false }) fun s =>
        if t && !wait then takeInterrupt 1 s else .next s := by
  have hwait : (s.pins.hold && !s.inhibit && s.interrupts t wait) = false := by
    obtain h | h := h <;> simp [h]
  unfold boundary
  rw [hwait, if_neg Bool.false_ne_true]
  dsimp only
  rw [hi, if_neg Bool.false_ne_true]

theorem boundary_quiet {s : State} (wait : Bool) (hi : s.inhibit = false) (hii : s.inhibitInt = false)
    (hn : s.nmiLatch = false) (hif : s.flags.ifl = false) : boundary false wait s = .next s := by
  have hs : { s with inhibitInt := false } = s := by rw [← hii]
  rw [boundary_proceeds (.inr (interrupts_quiet hn (.inl hif) rfl)) hi, hs, takeHardware_quiet hn (.inl hif),
    andThen_next, Bool.false_and, if_neg Bool.false_ne_true]

theorem interrupted_inhibit (s : State) (n : Byte) (ret : Word) : (interrupted s n ret).inhibit = s.inhibit := rfl

theorem interrupted_inhibitInt (s : State) (n : Byte) (ret : Word) :
    (interrupted s n ret).inhibitInt = s.inhibitInt := rfl

theorem interrupted_nmiLatch (s : State) (n : Byte) (ret : Word) : (interrupted s n ret).nmiLatch = s.nmiLatch := rfl

theorem interrupted_ifl (s : State) (n : Byte) (ret : Word) : (interrupted s n ret).flags.ifl = false := rfl

theorem raisesUnusedOpcode_eq_true (c : Unlisted) : Config.raisesUnusedOpcode c = true := by cases c <;> rfl

/-- The boundary after an interrupt of an instruction that left nothing to recognise: IF is 0 by then. -/
theorem boundary_interrupted {s : State} (hi : s.inhibit = false) (hii : s.inhibitInt = false)
    (hn : s.nmiLatch = false) (n : Byte) (ret : Word) :
    boundary false false (interrupted s n ret) = .next (interrupted s n ret) :=
  boundary_quiet false ((interrupted_inhibit s n ret).trans hi) ((interrupted_inhibitInt s n ret).trans hii)
    ((interrupted_nmiLatch s n ret).trans hn) (interrupted_ifl s n ret)

theorem runUnlisted_quiet {s : State} (c : Unlisted) (htf : s.flags.tf = false) (hi : s.inhibit = false)
    (hii : s.inhibitInt = false) (hn : s.nmiLatch = false) (hu : s.undisturbed = true) (hv : plainVector s 6 = true)
    (hroom : roomFor s 3 = true) : runUnlisted c s = .next (interrupted s 6 s.ip) := by
  rw [runUnlisted, raisesUnusedOpcode_eq_true, if_pos rfl, interrupt_plain hu hv hroom, andThen_next, htf]
  exact boundary_interrupted hi hii hn 6 s.ip

/-- An unlisted encoding takes type 6 with the offset after its bytes, and a boundary at which nothing waits. -/
theorem fetchAndRun_unlisted {s : State} {c : Unlisted} {n : Nat} (htf : s.flags.tf = false) (hi : s.inhibit = false)
    (hii : s.inhibitInt = false) (hn : s.nmiLatch = false) (hdec : decode s.fetchBytes = .unlisted c n)
    (hfetch : s.fetchesRefused n = none) (hu : s.undisturbed = true) (hv : plainVector s 6 = true)
    (hroom : roomFor s 3 = true) :
    fetchAndRun s = .next (interrupted (s.markStart.fetched.advance n) 6 (s.ip + BitVec.ofNat 16 n)) := by
  obtain ⟨start, drawn, hmark⟩ := markStart_fetched_eq s
  have hfetch' : { s with ipStart := start, free := drawn }.fetchesRefused n = none :=
    (fetchesRefused_same _).trans hfetch
  rw [fetchAndRun, hdec, hmark, runDecoded, hfetch']
  exact runUnlisted_quiet (s := { s with ipStart := start, free := drawn }.advance n) c htf hi hii hn hu
    ((plainVector_congr 6).trans hv) ((roomFor_congr 3).trans hroom)

theorem granted_iff (s : State) :
    s.granted = true ↔ s.pins.hold = true ∧ ¬ (s.pfx.lock = true ∧ ∃ op w, s.activity = .repeating op w) := by
  have hlocked : s.locked = true ↔ s.pfx.lock = true ∧ ∃ op w, s.activity = .repeating op w := by
    unfold State.locked
    cases s.activity <;> simp
  rw [State.granted, Bool.and_eq_true, ← hlocked, Bool.not_eq_true']
  exact and_congr_right fun _ => Bool.not_eq_true _ ▸ Iff.rfl

/-- Settles O4. -/
theorem stepWithoutInstruction : Obligations.StepWithoutInstruction := by
  intro s rest hagenda u
  have hmoves (hg : s.granted = false) (hdue : s.due = none) : step s = endedByRes (cpuMove u) := by
    rw [step_of_cpu hagenda, cpuTurn_moves (s := s.setAgenda rest) hg hdue]
  refine ⟨granted_iff s, fun hg => ?_, fun d hg hdue => ?_, fun hg hdue => ⟨fun hr => ?_, fun hr => ?_,
    fun op w hr => ?_, fun c n hr htf hi hii hn hdec hfetch hu hv hroom => ?_⟩⟩
  · rw [step_of_cpu hagenda, cpuTurn_granted (s := s.setAgenda rest) hg]
    rfl
  · rw [step_of_cpu hagenda, cpuTurn_due (s := s.setAgenda rest) hg hdue]
  · rw [hmoves hg hdue, cpuMove_halted (s := u) hr]
  · rw [hmoves hg hdue, cpuMove_waiting (s := u) hr]
  · rw [hmoves hg hdue, cpuMove_repeating (s := u) hr]
  · rw [hmoves hg hdue, cpuMove_running (s := u) hr, fetchAndRun_unlisted (s := u) htf hi hii hn hdec
      ((fetchesRefused_same _).trans hfetch) hu ((plainVector_congr 6).trans hv)
      ((roomFor_congr 3).trans hroom)]
    rfl

/-! ### Prefixes -/

theorem overrideSegment_first {s : State} (h : s.pfx.seg = none) (r : SegReg) :
    overrideSegment r s = .next { s with pfx := { s.pfx with seg := some r } } := by
  rw [overrideSegment, h, Option.isSome_none, if_neg Bool.false_ne_true]

theorem overrideSegment_second {s : State} (h : s.pfx.seg ≠ none) (r : SegReg) :
    overrideSegment r s = .refused .repeatedPrefix := by
  rw [overrideSegment, if_pos (Option.isSome_iff_ne_none.2 h)]

theorem exec_override {i : Instr} {r : SegReg}
    (h : (i, r) ∈ [(Instr.segEs, SegReg.es), (.segCs, .cs), (.segSs, .ss), (.segDs, .ds)]) (s : State) :
    exec i s = overrideSegment r s := by
  simp only [List.mem_cons, Prod.mk.injEq, List.not_mem_nil, or_false] at h
  obtain ⟨rfl, rfl⟩ | ⟨rfl, rfl⟩ | ⟨rfl, rfl⟩ | ⟨rfl, rfl⟩ := h <;> rfl

theorem exec_lock (s : State) :
    exec .lock s =
      if s.pfx.lock then .refused .repeatedPrefix else .next { s with pfx := { s.pfx with lock := true } } := rfl

theorem exec_rep (z : Bool) (s : State) :
    exec (.rep z) s =
      if s.pfx.rep.isSome then .refused .repeatedPrefix
      else .next { s with pfx := { s.pfx with rep := some z } } := rfl

/-- After a repeat prefix only a prefix or a string instruction may come (R192, D21). -/
theorem fetchAndRun_repeatNonString {s : State} {i : Instr} {n : Nat} (hdec : decode s.fetchBytes = .instr i n)
    (hfetch : s.fetchesRefused (s.fetchLength i n) = none) (hrep : s.pfx.rep ≠ none) (hp : isPrefix i = false)
    (hstr : isString i = false) : fetchAndRun s = .refused .repeatNonString := by
  obtain ⟨start, drawn, hmark⟩ := markStart_fetched_eq s
  rw [fetchAndRun, hdec, hmark, runDecoded]
  have hfetch' : { s with ipStart := start, free := drawn }.fetchesRefused
      ({ s with ipStart := start, free := drawn }.fetchLength i n) = none :=
    (fetchesRefused_same _).trans hfetch
  rw [hfetch']
  dsimp only
  rw [Option.isSome_iff_ne_none.2 hrep, hp, hstr]
  rfl

/-- Settles O6. -/
theorem prefixBytes : Obligations.PrefixBytes := by
  intro s
  refine ⟨fun i r hi => ⟨fun h => ?_, fun h => ?_⟩, fun h => ?_, fun h => ?_, fun z h => ?_, fun z h => ?_,
    fun rest i n hagenda hg hdue hr hdec hfetch hrep hp hstr => ?_⟩
  · rw [exec_override hi, overrideSegment_first h]
  · rw [exec_override hi, overrideSegment_second h]
  · rw [exec_lock, h, if_neg Bool.false_ne_true]
  · rw [exec_lock, h, if_pos rfl]
  · rw [exec_rep, h, Option.isSome_none, if_neg Bool.false_ne_true]
  · rw [exec_rep, if_pos (Option.isSome_iff_ne_none.2 h)]
  · rw [step_of_cpu hagenda, cpuTurn_moves (s := s.setAgenda rest) hg hdue,
      cpuMove_running (s := (s.setAgenda rest).takeBus) hr,
      fetchAndRun_repeatNonString (s := (s.setAgenda rest).takeBus) hdec
        ((fetchesRefused_same _).trans hfetch) hrep hp hstr]
    rfl

/-! ### The boundary -/

theorem takeInterrupt_resumed {s : State} {n : Byte} {ip : Word} (h : s.resumeIp = ip) :
    takeInterrupt n s = interrupt n ip { s with pfx := .none, activity := .running } := by
  rw [takeInterrupt, h]
  rfl

theorem awaitBus_of_not_repeating {s : State} (h : ∀ op v, s.activity ≠ .repeating op v) (t wait : Bool) :
    s.awaitBus t wait = { s with due := some { traced := t, wait := wait } } := by
  unfold State.awaitBus
  split
  next op v heq => exact absurd heq (h op v)
  next => rfl

theorem awaitBus_of_repeating {s : State} {op : StringOp} {v : Width} (h : s.activity = .repeating op v)
    (t wait : Bool) :
    s.awaitBus t wait =
      { s with ip := s.ipStart, pfx := .none, activity := .running, due := some { traced := t, wait := wait } } := by
  rw [State.awaitBus, h]
  rfl

theorem boundary_inhibited {s : State} (h : s.inhibit = true) (t wait : Bool) :
    boundary t wait s = .next { s with inhibitInt := false, inhibit := false } := by
  have hwait : (s.pins.hold && !s.inhibit && s.interrupts t wait) = false := by
    rw [h, Bool.not_true, Bool.and_false, Bool.false_and]
  unfold boundary
  rw [hwait, if_neg Bool.false_ne_true]
  exact if_pos h

theorem takeHardware_nmi {s : State} (h : s.nmiLatch = true) (hold : Bool) : takeHardware hold s = takeNmi s := by
  rw [takeHardware, if_pos h]

theorem takeHardware_maskable {s : State} {hold : Bool} (hn : s.nmiLatch = false) (hif : s.flags.ifl = true)
    (hh : hold = false) (hp : s.presents = true) : takeHardware hold s = takeMaskable s := by
  rw [takeHardware, hn, if_neg Bool.false_ne_true, hif, hh, hp]
  rfl

theorem interrupts_iff {s : State} {t wait : Bool} :
    s.interrupts t wait = true ↔ s.nmiLatch = true ∨
      (s.flags.ifl = true ∧ s.inhibitInt = false ∧ s.presents = true) ∨ (t = true ∧ wait = false) := by
  simp only [State.interrupts, Bool.or_eq_true, Bool.and_eq_true, Bool.not_eq_true', or_assoc, and_assoc]

/-- Settles O46. -/
theorem boundaryOrder : Obligations.BoundaryOrder := by
  intro s t w u nmi step1
  refine ⟨fun h => boundary_inhibited h t w, fun hbus hi hn => ?_, fun hbus hi hn hif hii hp => ?_,
    fun hbus hi hn hm => ?_, fun hbus hi hw => ⟨fun hr => ?_, fun op v hr => ?_⟩,
    fun n => ⟨fun op v hr => ?_, fun hr => ?_, fun hr => ?_⟩⟩
  · rw [boundary_proceeds (.inl hbus) hi, takeHardware_nmi (s := u) hn]
    rfl
  · rw [boundary_proceeds (.inl hbus) hi, takeHardware_maskable (s := u) hn hif hii hp]
  · have hquiet : s.pins.hold = false ∨ s.interrupts t w = false := by
      obtain h | rfl | rfl := hbus
      · exact .inl h
      · exact .inr (interrupts_quiet hn hm rfl)
      · exact .inr (interrupts_quiet hn hm (Bool.and_false t))
    rw [boundary_proceeds hquiet hi, takeHardware_quiet (s := u) hn hm]
    rfl
  · rw [boundary_awaits hbus hi (interrupts_iff.2 hw), awaitBus_of_not_repeating hr]
  · rw [boundary_awaits hbus hi (interrupts_iff.2 hw), awaitBus_of_repeating hr]
  · exact takeInterrupt_resumed (by rw [State.resumeIp, hr])
  · exact takeInterrupt_resumed (by rw [State.resumeIp, hr])
  · obtain hr | hr := hr <;> exact takeInterrupt_resumed (by rw [State.resumeIp, hr])

/-! ### Pins -/

/-- NMI at a boundary that has the bus: its sequence runs with the latch clear and DHLT set (R475). -/
theorem takeNmi_plain {s : State} (hu : s.undisturbed = true) (hlock : s.pfx.lock = false)
    (hv : plainVector s 2 = true) (hroom : roomFor s 3 = true) :
    takeNmi s =
      .next (interrupted
        { s with nmiLatch := false, intc := { s.intc with dhlt := true }, pfx := .none, activity := .running } 2
        s.resumeIp) := by
  have hu' : { s with nmiLatch := false, intc := { s.intc with dhlt := true }, pfx := .none
                      activity := .running : State }.undisturbed = true := by
    rw [State.undisturbed, hlock] at hu
    exact hu
  rw [takeNmi, takeInterrupt_resumed rfl]
  exact interrupt_plain hu' ((plainVector_congr 2).trans hv) ((roomFor_congr 3).trans hroom)

theorem setPin_frame (s : State) (p : Pin) (high : Bool) :
    s.setPin p high =
      { s with pins := (s.setPin p high).pins, nmiLatch := (s.setPin p high).nmiLatch, intc := (s.setPin p high).intc
               timers := (s.setPin p high).timers } := by
  cases p <;> rfl

end Sys2Proof.Proofs
end

section
/-! Pins, words in memory, where a bus cycle goes, and what a fetch sees of the prefetch queue. -/

namespace Sys2Proof.Proofs

open Sys2Proof.Machine Sys2Proof.Safety

/-! ### Pins -/

theorem setPin_level_same (s : State) (p : Pin) (high : Bool) : (s.setPin p high).pins.level p = high := by
  cases p <;> rfl

theorem setPin_level_other (s : State) {p q : Pin} (h : q ≠ p) (high : Bool) :
    (s.setPin p high).pins.level q = s.pins.level q := by
  cases p <;> cases q <;> simp [State.setPin, Pins.level] at h ⊢

theorem setPin_nmiLatch (s : State) (p : Pin) (high : Bool) :
    (s.setPin p high).nmiLatch = (s.nmiLatch || (decide (p = .nmi) && high && !s.pins.nmi)) := by
  cases p <;> simp [State.setPin]

theorem setPin_intc (s : State) (p : Pin) (high : Bool) :
    (s.setPin p high).intc = { s.intc with
      armed0 := s.intc.armed0 || (decide (p = .int0) && !high)
      armed1 := s.intc.armed1 || (decide (p = .int1) && !high)
      armed2 := s.intc.armed2 || (decide (p = .int2) && !high)
      armed3 := s.intc.armed3 || (decide (p = .int3) && !high) } := by
  cases p <;> simp [State.setPin]

theorem setPin_timers (s : State) (p : Pin) (high : Bool) :
    (s.setPin p high).timers = { s.timers with
      t0 := { s.timers.t0 with
        edge := s.timers.t0.edge || (decide (p = .tmrIn0) && high && !s.pins.tmrIn0 && s.timers.t0.en) }
      t1 := { s.timers.t1 with
        edge := s.timers.t1.edge || (decide (p = .tmrIn1) && high && !s.pins.tmrIn1 && s.timers.t1.en) } } := by
  cases p <;> simp [State.setPin]

/-- The NMI vector is at 8 and 10 (type 2). -/
theorem boundary_nmi {s : State} (hn : s.nmiLatch = true) (hi : s.inhibit = false) (hbus : s.pins.hold = false)
    (hu : s.undisturbed = true) (hlock : s.pfx.lock = false) (hv : plainVector s 2 = true)
    (hroom : roomFor s 3 = true) :
    ∃ u, boundary false false s = .next u ∧ u.nmiLatch = false ∧ u.ip = s.loadWord 8#20 ∧
      u.segs.cs = s.loadWord 10#20 := by
  rw [boundary_proceeds (.inl hbus) hi, takeHardware_nmi (s := { s with inhibitInt := false }) hn,
    takeNmi_plain (s := { s with inhibitInt := false }) hu hlock ((plainVector_congr 2).trans hv)
      ((roomFor_congr 3).trans hroom)]
  exact ⟨_, rfl, rfl, rfl, rfl⟩

/-- Settles O47. -/
theorem pinChanges : Obligations.PinChanges := by
  intro s p high t
  refine ⟨fun rest hagenda => ?_, setPin_frame s p high, setPin_level_same s p high,
    fun q hq => setPin_level_other s hq high, setPin_nmiLatch s p high,
    fun hn hi hbus hu hlock hv hroom => boundary_nmi hn hi hbus hu hlock hv hroom, setPin_intc s p high, ?_,
    setPin_timers s p high⟩
  · rw [step_of_agenda_cons hagenda]
    rfl
  · simp [State.intRequest, pinRequest, Intc.isSource]

/-! ### A word in memory -/

/-- Settles O11. -/
theorem wordStoreThenReads : Obligations.WordStoreThenReads := by
  intro s a v hwf hu h
  obtain ⟨hlow, hhigh⟩ := Bool.and_eq_true_iff.1 h
  refine ⟨s.storeWord a v, memWrite_plain (w := .word) hu h, ?_, ?_, ?_, fun b h0 h1 =>
    State.loadByte_storeWord_ne s h0 h1 v⟩
  · rw [memRead_plain (s := s.storeWord a v) (w := .byte) hu hlow]
    rw [valueAt, State.loadByte_storeWord_low hwf a v]
    rfl
  · rw [memRead_plain (s := s.storeWord a v) (w := .byte) hu hhigh]
    rw [valueAt, State.loadByte_storeWord_high hwf a v]
    rfl
  · rw [memRead_plain (s := s.storeWord a v) (w := .word) hu h]
    rw [valueAt, State.loadWord_storeWord hwf a v]

/-! ### Where a cycle goes -/

section
variable {s : State} (hu : s.undisturbed = true)
include hu

theorem memRead_cycle (w : Width) (a : Addr) : memRead w a s = memReadCycle w a s := by
  rw [memRead, interpose_undisturbed hu, andThen_next]

theorem memWrite_cycle (w : Width) (a : Addr) (v : BitVec w.bits) : memWrite w a v s = memWriteCycle w a v s := by
  rw [memWrite, interpose_undisturbed hu, andThen_next]

theorem ioRead_cycle (w : Width) (p : Word) : ioRead w p s = ioReadCycle w p s := by
  rw [ioRead, interpose_undisturbed hu, andThen_next]

theorem ioWrite_cycle (w : Width) (p : Word) (v : BitVec w.bits) : ioWrite w p v s = ioWriteCycle w p v s := by
  rw [ioWrite, interpose_undisturbed hu, andThen_next]

end

section
variable {s : State} {a : Addr} {p : Word}

theorem memCycles_block_word (h : s.blockInMem a = true ∨ s.blockInMem (a + 1) = true) (v : Word) :
    memReadCycle .word a s =
        (if a.getLsbD 0 then .refused .blockAccess else .next (s.readBlock (a.extractLsb' 0 8))) ∧
      memWriteCycle .word a v s =
        (if a.getLsbD 0 then .refused .blockAccess else (s.driveWord a v).writeBlock (a.extractLsb' 0 8) v) := by
  have hblock : (s.blockInMem a || s.blockInMem (a + 1)) = true := Bool.or_eq_true_iff.2 h
  constructor
  · rw [memReadCycle, hblock, if_pos rfl]
  · rw [memWriteCycle, hblock, if_pos rfl]

theorem memCycles_block_byte (h : s.blockInMem a = true) (v : Byte) :
    memReadCycle .byte a s = .refused .blockAccess ∧ memWriteCycle .byte a v s = .refused .blockAccess := by
  constructor
  · rw [memReadCycle, if_pos h]
  · rw [memWriteCycle, if_pos h]

theorem memCycles_vacant {w : Width} (hb : s.blockInMem a = false) (hb1 : w = .word → s.blockInMem (a + 1) = false)
    (h : s.vacant w a = true) (v : BitVec w.bits) :
    memReadCycle w a s = .refused .unpopulated ∧ memWriteCycle w a v s = .refused .unpopulated := by
  cases w with
  | byte => simp [memReadCycle, memWriteCycle, hb, h]
  | word =>
    simp only [memReadCycle, memWriteCycle, hb, hb1 rfl, h, Bool.or_self, Bool.false_eq_true, if_false,
      if_true, and_self]

theorem memCycles_byte (hb : s.blockInMem a = false) (h : s.place a ≠ .nothing) (v : Byte) :
    memReadCycle .byte a s = .next (s.presentByte a) ∧ memWriteCycle .byte a v s = .next (s.driveByte a v) := by
  have hvacant : s.vacant .byte a = false := by simp [State.vacant, h]
  simp [memReadCycle, memWriteCycle, hb, hvacant]

theorem ioCycles_block_word (hr : reservedPort p = false) (hr1 : reservedPort (p + 1) = false)
    (h : s.blockInIO p = true ∨ s.blockInIO (p + 1) = true) (v : Word) :
    ioReadCycle .word p s =
        (if p.getLsbD 0 then .refused .blockAccess else .next (s.readBlock (p.extractLsb' 0 8))) ∧
      ioWriteCycle .word p v s =
        (if p.getLsbD 0 then .refused .blockAccess
        else (s.logPort p true v).writeBlock (p.extractLsb' 0 8) v) := by
  have hblock : (s.blockInIO p || s.blockInIO (p + 1)) = true := Bool.or_eq_true_iff.2 h
  simp only [ioReadCycle, ioWriteCycle, hr, hr1, hblock, Bool.or_self, Bool.false_eq_true, if_false, if_true, and_self]

theorem ioCycles_block_byte (hr : reservedPort p = false) (h : s.blockInIO p = true) (v : Byte) :
    ioReadCycle .byte p s = .refused .blockAccess ∧ ioWriteCycle .byte p v s = .refused .blockAccess := by
  simp [ioReadCycle, ioWriteCycle, hr, h]

theorem ioCycles_vacant {w : Width} (hr : reservedPort p = false) (hr1 : w = .word → reservedPort (p + 1) = false)
    (hb : s.blockInIO p = false) (hb1 : w = .word → s.blockInIO (p + 1) = false) (h : s.vacantPort w p = true)
    (v : BitVec w.bits) :
    ioReadCycle w p s = .refused .unpopulated ∧ ioWriteCycle w p v s = .refused .unpopulated := by
  cases w with
  | byte => simp [ioReadCycle, ioWriteCycle, hr, hb, h]
  | word =>
    simp only [ioReadCycle, ioWriteCycle, hr, hr1 rfl, hb, hb1 rfl, h, Bool.or_self, Bool.false_eq_true, if_false,
      if_true, and_self]

end

/-- The reserved ports F8H to FFH are whole aligned words. -/
theorem reservedPort_succ {p : Word} (heven : p.getLsbD 0 = false) (h : reservedPort p = false) :
    reservedPort (p + 1) = false := by
  have hmod : p.toNat % 2 = 0 := by
    simpa [BitVec.getLsbD, Nat.testBit_zero] using heven
  rw [← Bool.not_eq_true, reservedPort_iff] at h ⊢
  rw [BitVec.toNat_add]
  simp
  omega

/-- Settles O13. -/
theorem cyclesReachTheirPlace : Obligations.CyclesReachTheirPlace := by
  intro s hu
  simp only [memRead_cycle hu, memWrite_cycle hu, ioRead_cycle hu, ioWrite_cycle hu]
  refine ⟨fun a v hb heven => ?_, fun a v hb => memCycles_block_byte hb v, fun a v hb hodd => ?_,
    fun p v hb heven hr => ?_, fun p v hb hr => ioCycles_block_byte hr hb v, fun p v hb hodd hr hr1 => ?_,
    fun a v hb hplace => ?_, fun a v b hb hplace hdev => ?_, fun a v hb hplace => ?_, fun a v hb hb1 hplace => ?_,
    fun p v hr hb hdev => ?_, fun p v hr hr1 hb hb1 hdev => ?_⟩
  · obtain ⟨hread, hwrite⟩ := memCycles_block_word (.inl hb) v
    rw [heven] at hread hwrite
    exact ⟨hread, hwrite, fun h h1 => driveWord_ram h h1 v⟩
  · obtain ⟨hread, hwrite⟩ := memCycles_block_word hb v
    rw [hodd] at hread hwrite
    exact ⟨hread, hwrite⟩
  · obtain ⟨hread, hwrite⟩ := ioCycles_block_word hr (reservedPort_succ heven hr) (.inl hb) v
    rw [heven] at hread hwrite
    exact ⟨hread, hwrite⟩
  · obtain ⟨hread, hwrite⟩ := ioCycles_block_word hr hr1 hb v
    rw [hodd] at hread hwrite
    exact ⟨hread, hwrite⟩
  · obtain ⟨hread, hwrite⟩ := memCycles_byte hb (by simp [hplace]) v
    rw [hread, hwrite, State.presentByte, State.driveByte, hplace]
    exact ⟨rfl, rfl⟩
  · obtain ⟨hread, hwrite⟩ := memCycles_byte hb (by simp [hplace]) v
    rw [hread, hwrite, State.presentByte, State.driveByte, hplace]
    dsimp only
    rw [State.memDevice, State.deviceByteAt, hdev]
    exact ⟨rfl, rfl⟩
  · exact memCycles_vacant hb (fun h => absurd h (by decide)) (by simp [State.vacant, hplace]) v
  · exact memCycles_vacant hb (fun _ => hb1) (by simpa [State.vacant] using hplace) v
  · exact ioCycles_vacant hr (fun h => absurd h (by decide)) hb (fun h => absurd h (by decide))
      (by simp [State.vacantPort, hdev]) v
  · exact ioCycles_vacant hr (fun _ => hr1) hb (fun _ => hb1) (by simpa [State.vacantPort] using hdev) v

/-! ### What a fetch sees -/

/-- A byte of the queue is the present one, or one that was overwritten while the queue could hold it. -/
theorem seenByte_cases (draw : Nat) (a : Addr) (now : Byte) (i : Nat) (l : List StaleByte) :
    seenByte draw a now i l = now ∨
      ∃ e ∈ l, e.addr = a ∧ e.ahead < Config.queueDepth ∧ seenByte draw a now i l = e.old := by
  induction l generalizing i with
  | nil => exact .inl rfl
  | cons e rest ih =>
    rw [seenByte]
    split
    next h =>
      simp only [Bool.and_eq_true, decide_eq_true_eq] at h
      obtain ⟨⟨haddr, hahead⟩, -⟩ := h
      exact .inr ⟨e, List.mem_cons_self, haddr, hahead, rfl⟩
    next =>
      obtain h | ⟨e', hmem, h⟩ := ih (i + 1)
      · exact .inl h
      · exact .inr ⟨e', List.mem_cons_of_mem _ hmem, h⟩

theorem seenByte_of_ne {draw : Nat} {a : Addr} {now : Byte} {i : Nat} {l : List StaleByte}
    (h : ∀ e ∈ l, e.addr ≠ a) : seenByte draw a now i l = now := by
  obtain hnow | ⟨e, hmem, haddr, -⟩ := seenByte_cases draw a now i l
  · exact hnow
  · exact absurd haddr (h e hmem)

theorem fetchByte_memory {s : State} {k : Nat} (h : s.place (s.codeAddr k) = .ram ∨ s.place (s.codeAddr k) = .rom) :
    s.fetchByte k = seenByte (s.free + k) (s.codeAddr k) (s.loadByte (s.codeAddr k)) 0 s.stale := by
  rw [State.fetchByte]
  obtain h | h := h <;> rw [h]

/-- The offset of an address of code from IP on, which the queue's depth is compared with. -/
theorem codeAhead_codeAddr (s : State) {k : Nat} (hk : k < 65536) : s.codeAhead (s.codeAddr k) = some k := by
  have hoff : (s.codeAddr k - phys s.segs.cs 0).toNat = (s.ip + BitVec.ofNat 16 k).toNat := by
    rw [State.codeAddr, phys, phys, BitVec.toNat_sub]
    simp
    omega
  rw [State.codeAhead, hoff, if_pos (by omega), BitVec.toNat_add, BitVec.toNat_ofNat]
  congr 1
  omega

/-- A store notes the old byte where it lies ahead of IP in the code segment, and nothing else. -/
theorem noteStale_of_nil {s : State} (h : s.stale = []) (a : Addr) (v : Byte) :
    ∀ e ∈ s.noteStale a v, e.addr = a ∧ e.old = s.loadByte a ∧ s.codeAhead a = some e.ahead := by
  intro e hmem
  unfold State.noteStale at hmem
  split at hmem
  · rw [h] at hmem
    exact absurd hmem List.not_mem_nil
  · split at hmem
    next k hk =>
      rw [h, List.mem_singleton] at hmem
      subst hmem
      exact ⟨rfl, rfl, hk⟩
    next =>
      rw [h] at hmem
      exact absurd hmem List.not_mem_nil

/-- Settles O5. -/
theorem fetchedByteIsNewOrQueued : Obligations.FetchedByteIsNewOrQueued := by
  intro s k hplace
  have hfetch := fetchByte_memory hplace
  refine ⟨?_, fun h => ?_, fun _ _ => ⟨rfl, rfl⟩, fun a v hstale hwf hk => ?_⟩
  · rw [hfetch]
    exact seenByte_cases _ _ _ _ _
  · rw [hfetch, h]
    rfl
  · intro t
    have hnoted := noteStale_of_nil hstale a v
    have hfetch' : t.fetchByte k =
        seenByte (s.free + k) (s.codeAddr k) (t.loadByte (s.codeAddr k)) 0 (s.noteStale a v) :=
      fetchByte_memory (s := t) hplace
    refine ⟨fun hne => ?_, fun heq => ?_⟩
    · rw [hfetch', hfetch, hstale, seenByte_of_ne fun e he => ?_, State.loadByte_storeByte_ne s hne.symm]
      · rfl
      · rw [(hnoted e he).1]
        exact hne
    · subst heq
      rw [hfetch']
      obtain h | ⟨e, hmem, -, hahead, hold⟩ := seenByte_cases (s.free + k) (s.codeAddr k) (t.loadByte (s.codeAddr k)) 0
        (s.noteStale (s.codeAddr k) v)
      · exact .inl (h.trans (State.loadByte_storeByte hwf _ v))
      · obtain ⟨-, hwas, hk'⟩ := hnoted e hmem
        rw [codeAhead_codeAddr s hk, Option.some_inj] at hk'
        exact .inr ⟨hk' ▸ hahead, hold.trans hwas⟩

end Sys2Proof.Proofs
end

section
/-! What comes between the bus cycles of a step: the entries of the agenda, one rule for each. -/

namespace Sys2Proof.Proofs

open Sys2Proof.Machine Sys2Proof.Safety

/-! ### The world outside does not look at the agenda -/

theorem timerReached_setAgenda (s : State) (l : List Turn) (k : TimerId) (reached : Bool) :
    (if reached then (s.setAgenda l).timerReached k else s.setAgenda l) =
      (if reached then s.timerReached k else s).setAgenda l := by
  cases reached with
  | false => rfl
  | true => cases k <;> rfl

theorem timerSlot_setAgenda (s : State) (l : List Turn) (k : TimerId) :
    (s.setAgenda l).timerSlot k = (s.timerSlot k).setAgenda l :=
  timerReached_setAgenda { s with timers := s.timers.set k ((s.timers.get k).slot k (s.timerPin k)) } l k _

theorem setPin_setAgenda (s : State) (l : List Turn) (p : Pin) (high : Bool) :
    (s.setAgenda l).setPin p high = (s.setPin p high).setAgenda l := by
  cases p <;> rfl

theorem world_setAgenda (s : State) (l : List Turn) (w : World) :
    (s.setAgenda l).world w = (s.world w).setAgenda l := by
  cases w with
  | slot k => exact timerSlot_setAgenda s l k
  | pin p high => exact setPin_setAgenda s l p high
  | inta b => rfl
  | device p b => rfl
  | memDevice a b => rfl

/-! ### The entries before a cycle -/

section
variable {s : State} {rest later : List Turn}

theorem interpose_cons {b : Between} (h : s.agenda = .between b :: rest) :
    interpose s = interposeAll s.pfx.lock (.between b :: rest) s := by
  rw [interpose, h]

theorem interposeAll_pass (lock : Bool) (s : State) (later : List Turn) :
    interposeAll lock (.between .pass :: later) s = .next (s.setAgenda later) := rfl

theorem interpose_held {b : Between} (h : s.agenda = .between b :: rest) (hlock : s.pfx.lock = true)
    (hb : (∃ c, b = .dma c) ∨ ∃ m, b = .master m) : interpose s = .next s := by
  rw [interpose_cons h, hlock]
  obtain ⟨c, rfl⟩ | ⟨m, rfl⟩ := hb
  · exact if_pos rfl
  · exact if_pos rfl

theorem interposeAll_dma_goes {c : Channel} {t : State} (hbus : s.pins.hold = false) (hgo : s.dmaMayGo c = true)
    (ht : dmaTransfer c (s.setAgenda rest) = .next t) :
    interposeAll false (.between (.dma c) :: rest) s = interposeAll false rest t := by
  rw [interposeAll, if_neg Bool.false_ne_true, hbus, hgo, Bool.not_false, Bool.and_self, if_pos rfl, ht, andThen_next]

theorem interposeAll_dma_waits {c : Channel} (h : s.pins.hold = true ∨ s.dmaMayGo c = false) :
    interposeAll false (.between (.dma c) :: rest) s = interposeAll false rest (s.setAgenda rest) := by
  have hno : (!s.pins.hold && s.dmaMayGo c) = false := by
    obtain h | h := h <;> simp [h]
  rw [interposeAll, if_neg Bool.false_ne_true, hno, if_neg Bool.false_ne_true, andThen_next]

theorem interposeAll_world {lock : Bool} {w : World} (h : holdTooLate lock w rest = false) :
    interposeAll lock (.between (.world w) :: rest) s = interposeAll lock rest ((s.setAgenda rest).world w) := by
  rw [interposeAll, h, if_neg Bool.false_ne_true]

theorem interposeAll_world_tooLate {lock : Bool} {w : World} (h : holdTooLate lock w rest = true) :
    interposeAll lock (.between (.world w) :: rest) s = .next s := by
  rw [interposeAll, if_pos h]

theorem masterMoves_write {x : Addr} (h : plainAt s .byte x = true) (v : Byte) :
    masterMoves (.write x v) s = .next (s.storeByte x v) := by
  obtain ⟨hblock, hram⟩ := plainByte_iff.1 h
  rw [masterMoves, hblock, if_neg Bool.false_ne_true, vacant_byte_ram hram, if_neg Bool.false_ne_true,
    driveByte_ram hram]

theorem interposeAll_master_write {x : Addr} (h : plainAt s .byte x = true) (v : Byte) :
    interposeAll false (.between (.master (.write x v)) :: rest) s =
      interposeAll false rest ((s.setAgenda rest).storeByte x v) := by
  rw [interposeAll, if_neg Bool.false_ne_true, masterMoves_write (s := s.setAgenda rest) h, andThen_next]

theorem raisesHold_eq_false {w : World} (h : w ≠ .pin .hold true) : w.raisesHold = false := by
  unfold World.raisesHold
  split
  next high =>
    cases high
    · rfl
    · exact absurd rfl h
  next => rfl

/-- One entry, and `pass` after it, which ends what comes before the cycle. -/
theorem interpose_world_pass {w : World} (h : s.agenda = .between (.world w) :: rest) (hw : w ≠ .pin .hold true)
    (hrest : rest = .between .pass :: later) : interpose s = .next ((s.world w).setAgenda later) := by
  have hlate : holdTooLate s.pfx.lock w rest = false := by
    rw [holdTooLate, raisesHold_eq_false hw, Bool.and_false, Bool.false_and]
  rw [interpose_cons h, interposeAll_world hlate, world_setAgenda, hrest]
  rfl

end

/-! ### Between the byte cycles of a word -/

section
variable {s : State} {rest : List Turn}

/-- No entry of a bus that only the two byte cycles of a word look at comes before the word. -/
theorem interpose_mid {b : Between} (h : s.agenda = .between b :: rest)
    (hb : (∃ high m, b = .midMaster high m) ∨ ∃ high, b = .midReset high) : interpose s = .next s := by
  rw [interpose_cons h]
  obtain ⟨high, m, rfl⟩ | ⟨high, rfl⟩ := hb <;> rfl

theorem memWriteCycle_plain_word {a : Addr} (h : plainAt s .word a = true) (v : Word) :
    memWriteCycle .word a v s = wordWriteCycles s.pfx.lock a v s := by
  obtain ⟨hlow, hhigh⟩ := Bool.and_eq_true_iff.1 h
  obtain ⟨hblock, hram⟩ := plainByte_iff.1 hlow
  obtain ⟨hblock', hram'⟩ := plainByte_iff.1 hhigh
  rw [memWriteCycle, hblock, hblock', vacant_ram hram hram']
  rfl

theorem wordWriteCycles_even {a : Addr} (h : a.getLsbD 0 = false) (alone : Bool) (v : Word) :
    wordWriteCycles alone a v s = .next (s.driveWord a v) := by
  have hsplit : s.splits alone (a.getLsbD 0) = none := by
    rw [h]
    rfl
  rw [wordWriteCycles, hsplit]

theorem wordWriteCycles_high {alone : Bool} {a : Addr} (h : s.splits alone (a.getLsbD 0) = some true) (v : Word) :
    wordWriteCycles alone a v s =
      andThen (interposeMid alone s.agenda (s.driveByte (a + 1) (Word.high v))) fun s =>
        .next (s.driveByte a (Word.low v)) := by
  rw [wordWriteCycles, h]

theorem wordWriteCycles_low {alone : Bool} {a : Addr} (h : s.splits alone (a.getLsbD 0) = some false) (v : Word) :
    wordWriteCycles alone a v s =
      andThen (interposeMid alone s.agenda (s.driveByte a (Word.low v))) fun s =>
        .next (s.driveByte (a + 1) (Word.high v)) := by
  rw [wordWriteCycles, h]

theorem mastersMid_end {alone : Bool} (h : ∀ b l, rest ≠ .between b :: l) (s : State) :
    mastersMid alone rest s = .next s := by
  unfold mastersMid
  split
  · exact absurd rfl (h _ _)
  · exact absurd rfl (h _ _)
  · rfl

/-- An external master's store between the byte cycles. -/
theorem interposeMid_master {high : Bool} {x : Addr} (hrest : ∀ b l, rest ≠ .between b :: l)
    (hx : plainAt s .byte x = true) (y : Byte) :
    interposeMid false (.between (.midMaster high (.write x y)) :: rest) s =
      .next ((s.setAgenda rest).storeByte x y) := by
  show andThen (masterMoves (.write x y) (s.setAgenda rest)) (mastersMid false rest) = _
  rw [masterMoves_write (s := s.setAgenda rest) hx, andThen_next, mastersMid_end hrest]

theorem memWrite_midMaster {a x : Addr} {v : Word} {y : Byte} {high : Bool} (hlock : s.pfx.lock = false)
    (h : s.agenda = .between (.midMaster high (.write x y)) :: rest) (hrest : ∀ b l, rest ≠ .between b :: l)
    (ha : plainAt s .word a = true) (hx : plainAt s .byte x = true) :
    memWrite .word a v s =
      if a.getLsbD 0 = false then .next (s.storeWord a v)
      else if high then
        .next ((((s.storeByte (a + 1) (v.extractLsb' 8 8)).setAgenda rest).storeByte x y).storeByte a
          (v.extractLsb' 0 8))
      else
        .next ((((s.storeByte a (v.extractLsb' 0 8)).setAgenda rest).storeByte x y).storeByte (a + 1)
          (v.extractLsb' 8 8)) := by
  obtain ⟨hlow, hhigh⟩ := Bool.and_eq_true_iff.1 ha
  have hram := (plainByte_iff.1 hlow).2
  have hram' := (plainByte_iff.1 hhigh).2
  rw [memWrite, interpose_mid h (.inl ⟨high, _, rfl⟩), andThen_next, memWriteCycle_plain_word ha, hlock]
  split
  next heven => rw [wordWriteCycles_even heven, driveWord_ram hram hram']
  next hodd =>
    have hsplit : s.splits false (a.getLsbD 0) = some high := by
      rw [Bool.not_eq_false _ |>.mp hodd, State.splits, h]
      rfl
    cases high with
    | true =>
      rw [wordWriteCycles_high hsplit, h, driveByte_ram hram',
        interposeMid_master (s := s.storeByte (a + 1) (Word.high v)) hrest hx, andThen_next,
        driveByte_ram (s := ((s.storeByte (a + 1) (Word.high v)).setAgenda rest).storeByte x y) hram]
      rfl
    | false =>
      rw [wordWriteCycles_low hsplit, h, driveByte_ram hram,
        interposeMid_master (s := s.storeByte a (Word.low v)) hrest hx, andThen_next,
        driveByte_ram (s := ((s.storeByte a (Word.low v)).setAgenda rest).storeByte x y) hram']
      rfl

theorem memWrite_midReset {a : Addr} {v : Word} {high : Bool} (h : s.agenda = .between (.midReset high) :: rest)
    (hodd : a.getLsbD 0 = true) (ha : plainAt s .word a = true) :
    memWrite .word a v s =
      .fault (.res ((if high then s.storeByte (a + 1) (v.extractLsb' 8 8)
        else s.storeByte a (v.extractLsb' 0 8)).setAgenda rest)) := by
  obtain ⟨hlow, hhigh⟩ := Bool.and_eq_true_iff.1 ha
  have hsplit (alone : Bool) : s.splits alone (a.getLsbD 0) = some high := by
    rw [hodd, State.splits, h]
    rfl
  rw [memWrite, interpose_mid h (.inr ⟨high, rfl⟩), andThen_next, memWriteCycle_plain_word ha]
  cases high with
  | true =>
    rw [wordWriteCycles_high (hsplit _), h, driveByte_ram (plainByte_iff.1 hhigh).2]
    rfl
  | false =>
    rw [wordWriteCycles_low (hsplit _), h, driveByte_ram (plainByte_iff.1 hlow).2]
    rfl

/-! ### The order of the byte cycles -/

theorem driveByte_device {a : Addr} (h : s.place a = .device) (v : Byte) : s.driveByte a v = s.logMem a v := by
  rw [State.driveByte, h]

/-- A word at a device, in the order the agenda gives, for the CPU and for the DMA unit. -/
theorem wordWriteCycles_byteOrder {a : Addr} {v : Word} {high : Bool}
    (h : s.agenda = .between (.byteOrder high) :: rest) (h0 : s.place a = .device) (h1 : s.place (a + 1) = .device)
    (alone : Bool) :
    wordWriteCycles alone a v s =
      .next (if a.getLsbD 0 = false then
        { s with memLog := { addr := a + 1, value := v.extractLsb' 8 8 } :: { addr := a, value := v.extractLsb' 0 8 } ::
          s.memLog }
      else
        { s with
          memLog := (if high then
              [{ addr := a, value := v.extractLsb' 0 8 }, { addr := a + 1, value := v.extractLsb' 8 8 }]
            else [{ addr := a + 1, value := v.extractLsb' 8 8 }, { addr := a, value := v.extractLsb' 0 8 }]) ++ s.memLog
          agenda := rest }) := by
  split
  next heven =>
    rw [wordWriteCycles_even heven, State.driveWord, driveByte_device h0, driveByte_device (s := s.logMem _ _) h1]
    rfl
  next hodd =>
    have hsplit : s.splits alone (a.getLsbD 0) = some high := by
      rw [splits_byteOrder h, Bool.not_eq_false _ |>.mp hodd]
      rfl
    cases high with
    | true =>
      rw [wordWriteCycles_high hsplit, h, interposeMid_byteOrder, andThen_next, driveByte_device h1,
        driveByte_device (s := (s.logMem _ _).setAgenda rest) h0]
      rfl
    | false =>
      rw [wordWriteCycles_low hsplit, h, interposeMid_byteOrder, andThen_next, driveByte_device h0,
        driveByte_device (s := (s.logMem _ _).setAgenda rest) h1]
      rfl

theorem not_vacant_device {a : Addr} (h0 : s.place a = .device) (h1 : s.place (a + 1) = .device) (w : Width) :
    s.vacant w a = false := by
  rw [State.vacant, h0, h1]
  cases w <;> rfl

theorem memWrite_word_device {a : Addr} {high : Bool} (h : s.agenda = .between (.byteOrder high) :: rest)
    (hb0 : s.blockInMem a = false) (hb1 : s.blockInMem (a + 1) = false) (h0 : s.place a = .device)
    (h1 : s.place (a + 1) = .device) (v : Word) :
    memWrite .word a v s = wordWriteCycles s.pfx.lock a v s ∧ dmaWriteMem .word a v s = wordWriteCycles true a v s := by
  have hvacant := not_vacant_device h0 h1 .word
  constructor
  · rw [memWrite, interpose_byteOrder h, andThen_next, memWriteCycle, hb0, hb1, hvacant]
    rfl
  · rw [dmaWriteMem, dmaMemFault, hb0, hb1, hvacant]
    rfl

theorem ioWrite_byteOrder {p v : Word} {high : Bool} (h : s.agenda = .between (.byteOrder high) :: rest)
    (hp : plainPort s .word p = true) :
    ioWrite .word p v s =
      .next (if p.getLsbD 0 = false then { s with portLog := { port := p, wide := true, value := v } :: s.portLog }
        else
          { s with
            portLog := (if high then
                [{ port := p, wide := false, value := (v.extractLsb' 0 8).setWidth 16 },
                  { port := p + 1, wide := false, value := (v.extractLsb' 8 8).setWidth 16 }]
              else
                [{ port := p + 1, wide := false, value := (v.extractLsb' 8 8).setWidth 16 },
                  { port := p, wide := false, value := (v.extractLsb' 0 8).setWidth 16 }]) ++ s.portLog
            agenda := rest }) := by
  obtain ⟨hlow, hhigh⟩ := Bool.and_eq_true_iff.1 hp
  simp only [plainPortByte, Bool.and_eq_true, Bool.not_eq_true'] at hlow hhigh
  obtain ⟨⟨hr, hb⟩, hd⟩ := hlow
  obtain ⟨⟨hr', hb'⟩, hd'⟩ := hhigh
  have hvacant : s.vacantPort .word p = false := by
    rw [State.vacantPort, hd, hd']
    rfl
  have hcycle : ioWriteCycle .word p v s = portWriteCycles s.pfx.lock p v s := by
    rw [ioWriteCycle, hr, hr', hb, hb', hvacant]
    rfl
  rw [ioWrite, interpose_byteOrder h, andThen_next, hcycle, portWriteCycles, splits_byteOrder h]
  cases p.getLsbD 0 with
  | false => rfl
  | true =>
    cases high with
    | true =>
      show andThen (interposeMid _ s.agenda _) _ = _
      rw [h]
      rfl
    | false =>
      show andThen (interposeMid _ s.agenda _) _ = _
      rw [h]
      rfl

end

/-! ### Outside the cycles -/

section
variable {s : State} {rest : List Turn} {b : Between} (h : s.agenda = .between b :: rest)
include h

theorem step_between : step s = .next (leftOver b (s.setAgenda rest)) := by
  rw [step_of_agenda_cons h]
  rfl

theorem step_between_other (hworld : ∀ w, b ≠ .world w) (hreset : b ≠ .reset) :
    step s = .next (s.setAgenda rest) := by
  rw [step_between h]
  unfold leftOver
  split
  next w => exact absurd rfl (hworld w)
  next => exact absurd rfl hreset
  all_goals rfl

end

theorem storeByte_setAgenda (s : State) (l : List Turn) (a : Addr) (v : Byte) :
    (s.setAgenda l).storeByte a v = (s.storeByte a v).setAgenda l := rfl

theorem hold_storeByte (s : State) (high : Bool) (a : Addr) (v : Byte) :
    (s.world (.pin .hold high)).storeByte a v = (s.storeByte a v).world (.pin .hold high) := rfl

theorem hold_again (s : State) (high high' : Bool) :
    (s.world (.pin .hold high)).world (.pin .hold high') = s.world (.pin .hold high') := rfl

/-- A store of an external master while HOLD is HIGH in between: the bus is granted, and released before `pass`. -/
theorem interpose_hold_write {s : State} {rest later : List Turn} {x : Addr} {v : Byte}
    (h : s.agenda = .between (.world (.pin .hold true)) :: rest) (hlock : s.pfx.lock = false)
    (hx : plainAt s .byte x = true)
    (hrest : rest =
      .between (.master (.write x v)) :: .between (.world (.pin .hold false)) :: .between .pass :: later) :
    interpose s = .next (((s.storeByte x v).setAgenda later).setPin .hold false) := by
  have hx' (l : List Turn) : plainAt ((s.setAgenda l).world (.pin .hold true)) .byte x = true := hx
  rw [interpose_cons h, hlock, hrest, interposeAll_world rfl, interposeAll_master_write (hx' _),
    interposeAll_world rfl, interposeAll_pass, storeByte_setAgenda, world_setAgenda, world_setAgenda, world_setAgenda,
    storeByte_setAgenda, hold_storeByte, world_setAgenda, hold_again]
  rfl

/-- HOLD rises and falls before the cycle. -/
theorem interpose_hold_pulse {s : State} {rest later : List Turn}
    (h : s.agenda = .between (.world (.pin .hold true)) :: rest) (hlock : s.pfx.lock = false)
    (hrest : rest = .between (.world (.pin .hold false)) :: .between .pass :: later) :
    interpose s = .next ((s.setAgenda later).setPin .hold false) := by
  rw [interpose_cons h, hlock, hrest, interposeAll_world rfl, interposeAll_world rfl]
  rfl

/-- Two channels before one cycle, and what the first used of the entries between them. -/
theorem interpose_two_channels {s t u : State} {rest later : List Turn} {c d : Channel} {used : List Bool}
    (h : s.agenda = .between (.dma c) :: rest) (hlock : s.pfx.lock = false)
    (hrest : rest = used.map (fun high => .between (.byteOrder high)) ++ .between (.dma d) :: .between .pass :: later)
    (hbus : s.pins.hold = false) (hgo : s.dmaMayGo c = true) (ht : dmaTransfer c (s.setAgenda rest) = .next t)
    (hused : t.agenda = .between (.dma d) :: .between .pass :: later) (hbus' : t.pins.hold = false)
    (hgo' : t.dmaMayGo d = true) (hu : dmaTransfer d (t.setAgenda (.between .pass :: later)) = .next u) :
    interpose s = .next (u.setAgenda later) := by
  rw [interpose_cons h, hlock, interposeAll_dma_goes hbus hgo ht, hrest, interposeAll_used false used _ hused,
    interposeAll_dma_goes hbus' hgo' hu, interposeAll_pass]

/-- Settles O15. -/
theorem betweenTheCycles : Obligations.BetweenTheCycles := by
  intro s rest
  refine ⟨fun b h => ⟨fun hb => ?_, fun hb => ?_, fun hlock => ⟨fun c hb => interpose_held h hlock (.inl ⟨c, hb⟩),
    fun m hb => interpose_held h hlock (.inr ⟨m, hb⟩)⟩, fun c later t hlock hb hrest hbus hgo ht => ?_,
    fun c d used later t u hlock hb hrest hbus hgo ht hused hbus' hgo' hu => ?_, fun c later hlock hb hrest hwait => ?_,
    fun later hb => ⟨fun hlock hrest => ?_, fun hlock hrest => ?_, fun hlock hrest => ?_,
      fun x v hlock hx hrest => ?_⟩,
    fun w later hb hw hrest => ?_, fun w hb => ?_, fun hb => ?_, step_between_other h,
    fun x v later hlock hb hrest hx => ?_, fun a x v y high hlock hb hrest ha hx => ?_, fun a v high hb hodd ha => ?_,
    fun a v high hb hb0 hb1 h0 h1 => ?_, fun p v high hb hp => ?_, fun hb => ?_, fun n ret hb => ?_⟩,
    fun u => ⟨rfl, rfl, rfl, rfl, rfl⟩⟩ <;> subst hb
  · rw [interpose_cons h, interposeAll_pass]
  · rw [interpose_cons h]
    rfl
  · rw [interpose_cons h, hlock, interposeAll_dma_goes hbus hgo ht, hrest, interposeAll_pass]
  · exact interpose_two_channels h hlock hrest hbus hgo ht hused hbus' hgo' hu
  · rw [interpose_cons h, hlock, interposeAll_dma_waits hwait, hrest, interposeAll_pass]
    rfl
  · rw [interpose_cons h, hlock, hrest, interposeAll_world_tooLate rfl]
  · rw [interpose_cons h, hlock, hrest, interposeAll_world rfl]
    rfl
  · exact interpose_hold_pulse h hlock hrest
  · exact interpose_hold_write h hlock hx hrest
  · exact interpose_world_pass h hw hrest
  · exact step_between h
  · exact step_between h
  · rw [interpose_cons h, hlock, interposeAll_master_write hx, hrest]
    rfl
  · exact memWrite_midMaster hlock h hrest ha hx
  · exact memWrite_midReset h hodd ha
  · obtain ⟨hcpu, hdma⟩ := memWrite_word_device h hb0 hb1 h0 h1 v
    dsimp only
    rw [hcpu, hdma, wordWriteCycles_byteOrder h h0 h1, wordWriteCycles_byteOrder h h0 h1]
    exact ⟨rfl, rfl⟩
  · exact ioWrite_byteOrder h hp
  · rw [resetBeforeStore, h]
  · rw [interrupt, h]
    rfl

end Sys2Proof.Proofs
end

section
/-! The control block: its offset map, and the relocation register. -/

namespace Sys2Proof.Proofs

open Sys2Proof.Machine Sys2Proof.Safety

/-! ### The offset map -/

theorem blockReg_of_mem_offsetMap {rmx : Bool} {off : Byte} {r : BlockReg} (h : (off, r) ∈ offsetMap rmx) :
    blockReg rmx off = some r := by
  have hall : ∀ rmx : Bool, ∀ p ∈ offsetMap rmx, blockReg rmx p.1 = some p.2 := by decide
  exact hall rmx (off, r) h

theorem mem_of_lookup {l : List (Nat × BlockReg)} {n : Nat} {r : BlockReg} (h : l.lookup n = some r) : (n, r) ∈ l := by
  induction l with
  | nil => exact absurd h (by simp)
  | cons p l ih =>
    obtain ⟨m, q⟩ := p
    rw [List.lookup_cons] at h
    split at h
    next heq =>
      rw [Option.some_inj] at h
      rw [eq_of_beq heq, h]
      exact List.mem_cons_self
    next => exact List.mem_cons_of_mem _ (ih h)

theorem mem_offsetMap_of_blockReg {rmx : Bool} {off : Byte} {r : BlockReg} (h : blockReg rmx off = some r) :
    (off, r) ∈ offsetMap rmx := by
  have hall : ∀ rmx : Bool, ∀ p ∈ commonMap ++ (if rmx then rmxMap else masterMap),
      (BitVec.ofNat 8 p.1, p.2) ∈ offsetMap rmx := by decide
  have hmem := hall rmx (off.toNat, r) (mem_of_lookup h)
  rwa [BitVec.ofNat_toNat, BitVec.setWidth_eq] at hmem

theorem block_of_reg {s : State} {off : Byte} {r : BlockReg} (h : blockReg s.rmx off = some r) (v : Word) :
    s.readBlock off = s.readReg r ∧ s.writeBlock off v = s.writeReg r v := by
  rw [State.readBlock, State.writeBlock, h]
  exact ⟨rfl, rfl⟩

theorem block_hole {s : State} {off : Byte} (h : blockReg s.rmx off = none) (v : Word) :
    s.readBlock off = (s.freeWord, s.drawn 1) ∧ s.writeBlock off v = .refused .blockHoleWrite := by
  rw [State.readBlock, State.writeBlock, h]
  exact ⟨rfl, rfl⟩

/-- Settles O54. -/
theorem blockOffsets : Obligations.BlockOffsets := by
  intro s v here
  refine ⟨fun off r h => block_of_reg (blockReg_of_mem_offsetMap h) v, fun off _ h => block_hole ?_ v⟩
  cases hreg : blockReg s.rmx off with
  | none => rfl
  | some r => exact absurd (mem_offsetMap_of_blockReg hreg) (h r)

/-! ### The relocation register -/

theorem block_reloc (s : State) (v : Word) :
    s.readBlock 0xFE#8 = (s.reloc, s) ∧ s.writeBlock 0xFE#8 v = s.writeReloc v := by
  have hreg (rmx : Bool) : blockReg rmx 0xFE#8 = some .reloc := by cases rmx <;> rfl
  exact block_of_reg (hreg s.rmx) v

theorem relocation_fits_iff (v : Word) :
    (v.getLsbD 12 = true ∨ v.extractLsb' 8 4 = 0#4) ↔ (!v.getLsbD 12 && decide (v.extractLsb' 8 4 ≠ 0)) = false := by
  cases v.getLsbD 12 <;> simp

theorem writeReloc_refused {s : State} {v : Word} (h : ¬ (v.getLsbD 12 = true ∨ v.extractLsb' 8 4 = 0#4)) :
    s.writeReloc v = .refused .relocationIOHigh := by
  rw [relocation_fits_iff, Bool.not_eq_false] at h
  rw [State.writeReloc, if_pos h]

theorem writeReloc_fits {s : State} {v : Word} (h : v.getLsbD 12 = true ∨ v.extractLsb' 8 4 = 0#4) :
    s.writeReloc v =
      .next { (if v.getLsbD 14 = s.rmx then s else s.scrambleIntc) with reloc := v } := by
  rw [relocation_fits_iff] at h
  rw [State.writeReloc, h, if_neg Bool.false_ne_true]
  split <;> rfl

theorem blockInMem_of_reloc {s : State} (h : s.reloc.getLsbD 12 = true) (off : Byte) :
    s.blockInMem (s.reloc.extractLsb' 0 12 ++ off) = true := by
  have hbase : (s.reloc.extractLsb' 0 12 ++ off : Addr).extractLsb' 8 12 = s.reloc.extractLsb' 0 12 :=
    BitVec.extractLsb'_append_eq_left
  rw [State.blockInMem, h, hbase]
  simp

theorem blockInIO_of_reloc {s : State} (h : s.reloc.getLsbD 12 = false) (hfits : s.reloc.extractLsb' 8 4 = 0#4)
    (off : Byte) : s.blockInIO (s.reloc.extractLsb' 0 8 ++ off) = true := by
  have hbase : (s.reloc.extractLsb' 0 8 ++ off : Word).extractLsb' 8 8 = s.reloc.extractLsb' 0 8 :=
    BitVec.extractLsb'_append_eq_left
  rw [State.blockInIO, h, hfits, hbase]
  simp

theorem not_blockInIO {s : State} (h : s.reloc.getLsbD 12 = true) (p : Word) : s.blockInIO p = false := by
  rw [State.blockInIO, h]
  rfl

theorem not_blockInMem {s : State} (h : s.reloc.getLsbD 12 = false) (a : Addr) : s.blockInMem a = false := by
  rw [State.blockInMem, h, Bool.false_and]

/-! ### The free bits of a change of mode -/

theorem three_bits (a b c : Bool) :
    (BitVec.ofBool a ++ BitVec.ofBool b ++ BitVec.ofBool c : BitVec 3).getLsbD 0 = c ∧
      (BitVec.ofBool a ++ BitVec.ofBool b ++ BitVec.ofBool c : BitVec 3).getLsbD 1 = b ∧
      (BitVec.ofBool a ++ BitVec.ofBool b ++ BitVec.ofBool c : BitVec 3).getLsbD 2 = a := by
  revert a b c
  decide

theorem five_bits_above (a b c d e : Bool) :
    [3, 4, 5, 6, 7].map (BitVec.ofBool a ++ BitVec.ofBool b ++ BitVec.ofBool c ++ BitVec.ofBool d ++
        BitVec.ofBool e ++ 0#3 : Byte).getLsbD = [e, d, c, b, a] ∧
      (BitVec.ofBool a ++ BitVec.ofBool b ++ BitVec.ofBool c ++ BitVec.ofBool d ++
        BitVec.ofBool e ++ 0#3 : Byte).extractLsb' 0 3 = 0#3 := by
  revert a b c d e
  decide

theorem freeBits3_bits (s : State) (n : Nat) :
    (s.freeBits3 n).getLsbD 0 = s.freeBit (n + 2) ∧ (s.freeBits3 n).getLsbD 1 = s.freeBit (n + 1) ∧
      (s.freeBits3 n).getLsbD 2 = s.freeBit n :=
  three_bits _ _ _

/-- The draws, counted from the first, of the bits of one source. -/
def sourceDraws (n : Nat) : List Nat := [n + 2, n + 1, n, n + 3, n + 4]

/-- The draws, counted from the first, of the bits that a change of mode leaves free, in the order of `openBits`. -/
def modeDraws : List Nat :=
  [0, 5, 10, 15, 20, 25, 30, 35, 40, 45, 50, 55].flatMap sourceDraws ++
    [60, 61, 62, 63, 64, 65, 66, 67, 68, 69, 70, 71, 72] ++ [75, 74, 73] ++ [78, 77, 76] ++ [83, 82, 81, 80, 79]

theorem scrambled_ivr (s : State) :
    [3, 4, 5, 6, 7].map s.scrambleIntc.intc.ivr.getLsbD = [83, 82, 81, 80, 79].map s.freeBit ∧
      s.scrambleIntc.intc.ivr.extractLsb' 0 3 = 0#3 :=
  five_bits_above _ _ _ _ _

theorem openBits_scrambled (s : State) : openBits s.scrambleIntc.intc = modeDraws.map s.freeBit := by
  have hsource (n : Nat) :
      [(s.freeSource n).pr.getLsbD 0, (s.freeSource n).pr.getLsbD 1, (s.freeSource n).pr.getLsbD 2,
        (s.freeSource n).msk, (s.freeSource n).isv] = (sourceDraws n).map s.freeBit := by
    obtain ⟨h0, h1, h2⟩ := freeBits3_bits s n
    simp only [State.freeSource, h0, h1, h2, sourceDraws, List.map_cons, List.map_nil]
  have hmask (n : Nat) : [0, 1, 2].map (s.freeBits3 n).getLsbD = [n + 2, n + 1, n].map s.freeBit := by
    obtain ⟨h0, h1, h2⟩ := freeBits3_bits s n
    simp only [List.map_cons, List.map_nil, h0, h1, h2]
  have hsources : (IntSource.inOrder.map s.scrambleIntc.intc.source ++
      RmxSource.inOrder.map s.scrambleIntc.intc.rmxSource) =
      [0, 5, 10, 15, 20, 25, 30, 35, 40, 45, 50, 55].map s.freeSource := rfl
  have hprm : s.scrambleIntc.intc.prm = s.freeBits3 73 := rfl
  have hmsk : s.scrambleIntc.intc.rMask = s.freeBits3 76 := rfl
  rw [openBits, (scrambled_ivr s).1, hprm, hmsk, hmask, hmask, hsources, List.flatMap_map, modeDraws, List.map_append,
    List.map_append, List.map_append, List.map_append, List.map_flatMap]
  simp only [hsource]
  rfl

theorem exists_modeDraws (s : State) :
    ∃ draws : List Nat, draws.Nodup ∧ (∀ d ∈ draws, s.free ≤ d ∧ d < s.scrambleIntc.free) ∧
      openBits s.scrambleIntc.intc = draws.map Config.freeBit := by
  have hnodup : modeDraws.Nodup := by decide
  have hbound : ∀ d ∈ modeDraws, d < 88 := by decide
  refine ⟨modeDraws.map (s.free + ·), hnodup.map fun _ _ h => Nat.add_left_cancel h, fun d hd => ?_, ?_⟩
  · obtain ⟨n, hn, rfl⟩ := List.mem_map.1 hd
    exact ⟨Nat.le_add_right _ _, Nat.add_lt_add_left (hbound n hn) _⟩
  · rw [openBits_scrambled, List.map_map]
    rfl

/-- Settles O14. -/
theorem relocationMovesBlock : Obligations.RelocationMovesBlock := by
  intro s v fits
  have hblock := (block_reloc s v).2
  refine ⟨fun h => hblock.trans (writeReloc_refused h), fun h => ?_⟩
  refine ⟨_, hblock.trans (writeReloc_fits h), ?_, (block_reloc _ v).1, rfl, fun hmem =>
    ⟨blockInMem_of_reloc (s := { (if v.getLsbD 14 = s.rmx then s else s.scrambleIntc) with reloc := v }) hmem _,
      not_blockInIO hmem⟩, fun hio => ⟨?_, not_blockInMem hio⟩, fun hsame => ?_, fun hmode => ?_⟩
  · split <;> rfl
  · exact blockInIO_of_reloc (s := { (if v.getLsbD 14 = s.rmx then s else s.scrambleIntc) with reloc := v }) hio
      (h.resolve_left (by rw [hio]; exact Bool.false_ne_true)) _
  · rw [if_pos hsame]
  · rw [if_neg hmode]
    exact ⟨rfl, rfl, rfl, rfl, rfl, (scrambled_ivr s).2, exists_modeDraws s⟩

end Sys2Proof.Proofs
end

section
/-! The interrupt controller: the source presented, its acknowledge, end of interrupt, polling, and the slave mode. -/

namespace Sys2Proof.Proofs

open Sys2Proof.Machine Sys2Proof.Safety

/-! ### The smallest of the sources that qualify -/

/-- k comes before u: by level, and at equal levels by the default order. -/
def Precedes (c : Intc) (k u : IntSource) : Prop :=
  (c.source k).pr.toNat < (c.source u).pr.toNat ∨
    ((c.source k).pr.toNat = (c.source u).pr.toNat ∧ k.default ≤ u.default)

theorem Precedes.trans {c : Intc} {k u v : IntSource} (h : Precedes c k u) (h' : Precedes c u v) : Precedes c k v := by
  unfold Precedes at *
  omega

theorem default_injective : Function.Injective IntSource.default := by
  intro k u h
  cases k <;> cases u <;> simp [IntSource.default] at h ⊢

theorem Precedes.antisymm {c : Intc} {k u : IntSource} (h : Precedes c k u) (h' : Precedes c u k) : k = u := by
  refine default_injective ?_
  unfold Precedes at *
  omega

/-- What `smallest` finds in a list in default order. -/
theorem smallest_spec (c : Intc) (ok : IntSource → Bool) {l : List IntSource}
    (hl : l.Pairwise (fun k u => k.default ≤ u.default)) :
    match c.smallest ok l with
    | none => ∀ u ∈ l, ok u = false
    | some k => k ∈ l ∧ ok k = true ∧ ∀ u ∈ l, ok u = true → Precedes c k u := by
  induction l with
  | nil => exact fun u hu => absurd hu List.not_mem_nil
  | cons k rest ih =>
    obtain ⟨hk, hrest⟩ := List.pairwise_cons.1 hl
    have hih := ih hrest
    have hself (b : IntSource) : Precedes c b b := .inr ⟨rfl, le_rfl⟩
    rw [Intc.smallest]
    cases hs : c.smallest ok rest with
    | none =>
      rw [hs] at hih
      dsimp only at hih ⊢
      cases hok : ok k with
      | false => exact List.forall_mem_cons.2 ⟨hok, hih⟩
      | true =>
        exact ⟨List.mem_cons_self, hok,
          List.forall_mem_cons.2 ⟨fun _ => hself k, fun u hu hoku => absurd hoku (by simp [hih u hu])⟩⟩
    | some b =>
      rw [hs] at hih
      obtain ⟨hmem, hokb, hb⟩ := hih
      dsimp only
      cases hcond : ok k && decide ((c.source k).pr ≤ (c.source b).pr) with
      | true =>
        rw [Bool.and_eq_true, decide_eq_true_eq, BitVec.le_def] at hcond
        obtain ⟨hok, hle⟩ := hcond
        have hkb : Precedes c k b := by
          have := hk b hmem
          unfold Precedes
          omega
        exact ⟨List.mem_cons_self, hok,
          List.forall_mem_cons.2 ⟨fun _ => hself k, fun u hu hoku => hkb.trans (hb u hu hoku)⟩⟩
      | false =>
        refine ⟨List.mem_cons_of_mem _ hmem, hokb, List.forall_mem_cons.2 ⟨fun hok => .inl ?_, hb⟩⟩
        rw [hok, Bool.true_and, decide_eq_false_iff_not, BitVec.le_def] at hcond
        omega

theorem smallest_eq_some_iff {c : Intc} {ok : IntSource → Bool} {k : IntSource} :
    c.smallest ok IntSource.inOrder = some k ↔ ok k = true ∧ ∀ u, ok u = true → Precedes c k u := by
  have hmem (u : IntSource) : u ∈ IntSource.inOrder := by cases u <;> decide
  have hspec := smallest_spec c ok (l := IntSource.inOrder) (by decide)
  constructor
  · intro h
    rw [h] at hspec
    obtain ⟨-, hok, hmin⟩ := hspec
    exact ⟨hok, fun u => hmin u (hmem u)⟩
  · rintro ⟨hok, hmin⟩
    cases hs : c.smallest ok IntSource.inOrder with
    | none =>
      rw [hs] at hspec
      exact absurd hok (by simp [hspec k (hmem k)])
    | some b =>
      rw [hs] at hspec
      obtain ⟨-, hokb, hminb⟩ := hspec
      rw [(hminb k (hmem k) hok).antisymm (hmin b hokb)]

theorem smallest_eq_none_iff {c : Intc} {ok : IntSource → Bool} :
    c.smallest ok IntSource.inOrder = none ↔ ∀ k, ok k = false := by
  have hmem (u : IntSource) : u ∈ IntSource.inOrder := by cases u <;> decide
  have hspec := smallest_spec c ok (l := IntSource.inOrder) (by decide)
  constructor
  · intro h u
    rw [h] at hspec
    exact hspec u (hmem u)
  · intro h
    cases hs : c.smallest ok IntSource.inOrder with
    | none => rfl
    | some b =>
      rw [hs] at hspec
      obtain ⟨-, hokb, -⟩ := hspec
      exact absurd hokb (by simp [h b])

/-! ### Eligibility -/

/-- A source in service holds off every other one that is not above it (D29: an equal level too). -/
theorem holdsOff_iff {c : Intc} {k u : IntSource} :
    c.holdsOff k u = true ↔
      u ≠ k ∧ c.isSource u = true ∧ (c.source u).isv = true ∧ (c.source u).pr.toNat ≤ (c.source k).pr.toNat := by
  simp only [Intc.holdsOff, Config.equalLevelBlocked, Bool.true_or, Bool.and_true, Bool.and_eq_true, Bool.or_eq_true,
    decide_eq_true_eq, BitVec.lt_def, ← BitVec.toNat_inj, and_assoc, Nat.le_iff_lt_or_eq]

theorem eligible_iff {s : State} {k : IntSource} :
    s.eligible k = true ↔
      s.intRequest k = true ∧ (s.intc.source k).msk = false ∧
      (s.intc.source k).pr.toNat ≤ s.intc.prm.toNat ∧
      ((s.intc.source k).isv = false ∨ s.intc.special k = true) ∧
      ∀ u, u ≠ k → s.intc.isSource u = true → (s.intc.source u).isv = true →
        (s.intc.source k).pr.toNat < (s.intc.source u).pr.toNat := by
  have hmem (u : IntSource) : u ∈ IntSource.inOrder := by cases u <;> decide
  have hall : (!IntSource.inOrder.any (s.intc.holdsOff k)) = true ↔
      ∀ u, u ≠ k → s.intc.isSource u = true → (s.intc.source u).isv = true →
        (s.intc.source k).pr.toNat < (s.intc.source u).pr.toNat := by
    simp only [Bool.not_eq_true', List.any_eq_false, holdsOff_iff, hmem, forall_const, not_and, Nat.not_le]
  simp only [State.eligible, Bool.and_eq_true, hall, Bool.not_eq_true', Bool.or_eq_true, decide_eq_true_eq,
    BitVec.le_def, and_assoc]

/-- Settles O48. -/
theorem highestEligibleIsPresented : Obligations.HighestEligibleIsPresented := fun _ =>
  ⟨fun _ => eligible_iff, fun _ => smallest_eq_some_iff, smallest_eq_none_iff⟩

/-! ### The acknowledge -/

section
variable (c : Intc)

theorem source_setService_same (k : IntSource) (b : Bool) :
    (c.setService k b).source k = { c.source k with isv := b } := by
  cases k <;> rfl

theorem source_setService_other {k u : IntSource} (h : u ≠ k) (b : Bool) :
    (c.setService k b).source u = c.source u := by
  cases k <;> cases u <;> simp [Intc.setService, Intc.setSource, Intc.source] at h ⊢

theorem source_clearRequest (k u : IntSource) : (c.clearRequest k).source u = c.source u := by
  cases k with
  | tmr =>
    rw [Intc.clearRequest]
    split
    · cases u <;> rfl
    · split <;> cases u <;> rfl
  | _ => cases u <;> rfl

/-- Of the timers' requests the acknowledge resets the lowest-numbered one alone. -/
theorem clearRequest_tmr :
    c.clearRequest .tmr =
      { c with irt0 := false, irt1 := c.irt1 && c.irt0, irt2 := c.irt2 && (c.irt0 || c.irt1) } := by
  rw [Intc.clearRequest]
  cases c
  split
  · simp_all
  · split <;> simp_all

/-- Whether a source is special, cascaded or by level is untouched by its acknowledge. -/
theorem modes_acknowledged (k u : IntSource) :
    ((c.setService k true).clearRequest k).special u = c.special u ∧
      ((c.setService k true).clearRequest k).level u = c.level u := by
  cases k with
  | tmr =>
    rw [clearRequest_tmr]
    cases u <;> exact ⟨rfl, rfl⟩
  | _ => cases u <;> exact ⟨rfl, rfl⟩

end

section
variable {s : State} {k : IntSource}

theorem source_acknowledged_same : ((s.acknowledged k).intc.source k).isv = true := by
  rw [State.acknowledged, source_clearRequest, source_setService_same]

theorem source_acknowledged_other {u : IntSource} (h : u ≠ k) :
    (s.acknowledged k).intc.source u = s.intc.source u := by
  rw [State.acknowledged, source_clearRequest, source_setService_other s.intc h]

theorem not_eligible_acknowledged (h : s.intc.special k = false) : (s.acknowledged k).eligible k = false := by
  have hspecial : (s.acknowledged k).intc.special k = false := (modes_acknowledged s.intc k k).1.trans h
  rw [State.eligible, source_acknowledged_same, hspecial]
  simp

theorem intRequest_acknowledged_other {u : IntSource} (h : u ≠ k) :
    (s.acknowledged k).intRequest u = s.intRequest u := by
  cases k with
  | tmr =>
    rw [State.acknowledged, clearRequest_tmr]
    cases u <;> simp [State.intRequest, Intc.setService, Intc.setSource, Intc.isSource] at h ⊢
  | _ =>
    cases u <;>
      simp [State.acknowledged, State.intRequest, Intc.clearRequest, Intc.setService, Intc.setSource, Intc.isSource]
        at h ⊢

/-- A request acknowledged goes, but for a pin in level mode, which asks on while it is HIGH. -/
theorem intRequest_acknowledged_same (hreq : s.intRequest k = true) (h : k ≠ .tmr) :
    (s.acknowledged k).intRequest k = s.intc.level k := by
  cases k <;>
    simp_all [State.intRequest, State.acknowledged, Intc.clearRequest, Intc.setService, Intc.setSource, pinRequest,
      Intc.level, Intc.isSource]

theorem irt_acknowledged_other (h : k ≠ .tmr) :
    (s.acknowledged k).intc.irt0 = s.intc.irt0 ∧ (s.acknowledged k).intc.irt1 = s.intc.irt1 ∧
      (s.acknowledged k).intc.irt2 = s.intc.irt2 := by
  cases k with
  | tmr => exact absurd rfl h
  | _ => exact ⟨rfl, rfl, rfl⟩

theorem irt_acknowledged_tmr :
    (s.acknowledged .tmr).intc.irt0 = false ∧ (s.acknowledged .tmr).intc.irt1 = (s.intc.irt1 && s.intc.irt0) ∧
      (s.acknowledged .tmr).intc.irt2 = (s.intc.irt2 && (s.intc.irt0 || s.intc.irt1)) := by
  rw [State.acknowledged, clearRequest_tmr]
  exact ⟨rfl, rfl, rfl⟩

theorem takeMaskable_presented (hmode : s.rmx = false) (h : s.presented = some k) :
    takeMaskable s = takeInterrupt (s.ackVector k) ((s.intaCycles k).acknowledged k) := by
  rw [takeMaskable, hmode, if_neg Bool.false_ne_true, acknowledgeMaster, h]

end

/-- Settles O50. -/
theorem acknowledgeServesPresented : Obligations.AcknowledgeServesPresented := by
  intro s k hmode h t
  have hreq : s.intRequest k = true := (eligible_iff.1 (smallest_eq_some_iff.1 h).1).1
  refine ⟨takeMaskable_presented hmode h, source_acknowledged_same,
    fun u hu => congrArg Source.isv (source_acknowledged_other hu), not_eligible_acknowledged,
    fun u hu => intRequest_acknowledged_other hu, intRequest_acknowledged_same hreq, fun hk => ?_,
    irt_acknowledged_other, fun hk => ?_, fun hk => ?_, fun hk => ?_, fun hk => ?_, fun hk => ?_, fun hk => ?_,
    fun hc => ?_, fun hc => ?_⟩
  · subst hk
    exact irt_acknowledged_tmr
  iterate 6
    · subst hk
      rfl
  · rw [State.ackVector, State.intaCycles, hc]
    exact ⟨rfl, rfl⟩
  · rw [State.ackVector, State.intaCycles, hc, if_neg Bool.false_ne_true, if_neg Bool.false_ne_true]
    refine ⟨rfl, ?_⟩
    cases k with
    | tmr =>
      rw [Intc.vectorType]
      dsimp only
      split
      · rfl
      · split <;> rfl
    | _ => rfl

/-! ### End of interrupt and polling -/

theorem eoi_nonspecific {c : Intc} {v : Word} {k : IntSource} (hv : v.getLsbD 15 = true) (hsource : c.isSource k = true)
    (hisv : (c.source k).isv = true)
    (hmin : ∀ u, c.isSource u = true → (c.source u).isv = true → Precedes c k u) : c.eoi v = c.setService k false := by
  have hsmallest : c.smallest (fun k => c.isSource k && (c.source k).isv) IntSource.inOrder = some k :=
    smallest_eq_some_iff.2 ⟨Bool.and_eq_true_iff.2 ⟨hsource, hisv⟩, fun u hu =>
      hmin u (Bool.and_eq_true_iff.1 hu).1 (Bool.and_eq_true_iff.1 hu).2⟩
  rw [Intc.eoi, hv, if_pos rfl, hsmallest]

theorem eoi_specific {c : Intc} {v : Word} {k : IntSource} (hv : v.getLsbD 15 = false)
    (htype : eoiSource (BitVec.ofNat 5 (v.toNat % 32)) = some k) : c.eoi v = c.setService k false := by
  have hfield : v.extractLsb' 0 5 = BitVec.ofNat 5 (v.toNat % 32) := by
    refine BitVec.eq_of_toNat_eq ?_
    simp [BitVec.extractLsb'_toNat]
  rw [Intc.eoi, hv, if_neg Bool.false_ne_true, hfield, htype]

/-- Settles O51. -/
theorem endOfInterruptResets : Obligations.EndOfInterruptResets := by
  intro c k
  refine ⟨fun v => eoi_nonspecific, fun v hv htype => eoi_specific hv ?_, ?_,
    fun u hu => source_setService_other c hu false⟩
  · rw [htype]
    cases k <;> rfl
  · rw [source_setService_same]

theorem pollWord_presented {s : State} {k : IntSource} (h : s.presented = some k) :
    s.pollWord = 0x8000#16 ||| (s.intc.vectorType k).setWidth 16 := by
  rw [State.pollWord, h]

theorem pollWord_none {s : State} (h : s.presented = none) : s.pollWord.getLsbD 15 = false := by
  rw [State.pollWord, h]
  simp

/-- Settles O52. -/
theorem pollWords : Obligations.PollWords := by
  refine fun s => ⟨fun k h => ?_, fun h => ?_⟩
  · simp only [State.readReg, State.readPoll, State.readPollStatus, h, pollWord_presented h, and_self]
  · simp only [State.readReg, State.readPoll, State.readPollStatus, h]
    exact ⟨pollWord_none h, pollWord_none h, rfl, rfl⟩

/-! ### The slave mode -/

section
variable {c : Intc} {k : RmxSource}

theorem mem_rmxInOrder (u : RmxSource) : u ∈ RmxSource.inOrder := by cases u <;> decide

theorem rmxEligible_iff :
    c.rmxEligible k = true ↔
      c.rmxRequest k = true ∧ (c.rmxSource k).msk = false ∧ k.levelOf.toNat ≤ c.rMask.toNat ∧
        ∀ u, (c.rmxSource u).isv = true → k.levelOf.toNat ≤ u.levelOf.toNat := by
  simp only [Intc.rmxEligible, Config.irmxEqualMasked, Bool.false_and, Bool.or_false, Bool.and_eq_true,
    Bool.not_eq_true', decide_eq_true_eq, List.any_eq_false, mem_rmxInOrder, forall_const, BitVec.le_def, BitVec.lt_def,
    not_and, Nat.not_lt, and_assoc]

theorem rmxLevelsOk_iff : c.rmxLevelsOk = true ↔ ∀ k, (c.rmxSource k).pr.toNat = k.levelOf.toNat := by
  simp only [Intc.rmxLevelsOk, List.all_eq_true, mem_rmxInOrder, forall_const, decide_eq_true_eq, BitVec.toNat_inj]

/-- The sources of the slave stand in the order of their levels, so the first eligible one is the lowest. -/
theorem rmxPresented_of_lowest (h : c.rmxEligible k = true)
    (hmin : ∀ u, c.rmxEligible u = true → k.levelOf.toNat ≤ u.levelOf.toNat) : c.rmxPresented = some k := by
  have habove (u : RmxSource) (hu : u.levelOf.toNat < k.levelOf.toNat) : c.rmxEligible u = false := by
    rw [← Bool.not_eq_true]
    exact fun hel => absurd (hmin u hel) (Nat.not_le.2 hu)
  have hsplit : ∃ before after, RmxSource.inOrder = before ++ k :: after ∧
      ∀ u ∈ before, u.levelOf.toNat < k.levelOf.toNat := by
    cases k with
    | t0 => exact ⟨[], [.d0, .d1, .t1, .t2], rfl, by decide⟩
    | d0 => exact ⟨[.t0], [.d1, .t1, .t2], rfl, by decide⟩
    | d1 => exact ⟨[.t0, .d0], [.t1, .t2], rfl, by decide⟩
    | t1 => exact ⟨[.t0, .d0, .d1], [.t2], rfl, by decide⟩
    | t2 => exact ⟨[.t0, .d0, .d1, .t1], [], rfl, by decide⟩
  obtain ⟨before, after, heq, hbefore⟩ := hsplit
  rw [Intc.rmxPresented, List.find?_eq_some_iff_append]
  exact ⟨h, before, after, heq, fun u hu => by rw [habove u (hbefore u hu)]; rfl⟩

theorem rmxPresented_isSome_iff : c.rmxPresented.isSome = true ↔ ∃ k, c.rmxEligible k = true := by
  simp only [Intc.rmxPresented, List.find?_isSome, mem_rmxInOrder, true_and]

theorem toNat_append_eq {n m : Nat} (x : BitVec n) (y : BitVec m) : (x ++ y).toNat = x.toNat * 2 ^ m + y.toNat := by
  rw [BitVec.toNat_append, ← Nat.shiftLeft_add_eq_or_of_lt y.isLt, Nat.shiftLeft_eq]

theorem rmxVector_toNat : (c.rmxVector k).toNat = c.ivr.toNat / 8 * 8 + k.levelOf.toNat := by
  have happend : (c.rmxVector k).toNat = (c.ivr.extractLsb' 3 5).toNat * 2 ^ 3 + k.levelOf.toNat :=
    toNat_append_eq _ _
  rw [happend, BitVec.extractLsb'_toNat, Nat.shiftRight_eq_div_pow]
  omega

theorem rmxAcknowledged_same :
    ((c.rmxAcknowledged k).rmxSource k).isv = true ∧ (c.rmxAcknowledged k).rmxRequest k = false := by
  cases k <;> exact ⟨rfl, rfl⟩

end

theorem takeMaskable_selected {s : State} {k : RmxSource} (hmode : s.rmx = true) (hsel : s.pins.int1 = true)
    (hlevels : s.intc.rmxLevelsOk = true) (hk : s.intc.rmxPresented = some k) :
    takeMaskable s = takeInterrupt (s.intc.rmxVector k)
      { s with acks := .int2 :: s.acks, intc := s.intc.rmxAcknowledged k } := by
  rw [takeMaskable, hmode, if_pos rfl, acknowledgeRmx, hsel, hlevels, hk]
  rfl

theorem takeMaskable_unselected {s : State} (hmode : s.rmx = true) (hsel : s.pins.int1 = false) :
    takeMaskable s = takeInterrupt s.intaByte { s with acks := .int2 :: s.acks } := by
  rw [takeMaskable, hmode, if_pos rfl, acknowledgeRmx, hsel]
  rfl

/-- Settles O53. -/
theorem slaveModeAcknowledge : Obligations.SlaveModeAcknowledge := by
  intro s hmode
  refine ⟨takeMaskable_unselected hmode, fun k hsel hlevels hk hmin => ?_, ?_, ?_, rmxPresented_isSome_iff⟩
  · refine ⟨s.intc.rmxVector k, takeMaskable_selected hmode hsel hlevels (rmxPresented_of_lowest hk hmin),
      rmxVector_toNat, rmxAcknowledged_same.1, rmxAcknowledged_same.2, fun hivr hk => ?_⟩
    subst hk
    rw [Intc.rmxVector, hivr]
    rfl
  · intro level request
    have hlevel (k : RmxSource) : k.levelOf.toNat = level k := by cases k <;> rfl
    have hrequest (k : RmxSource) : s.intc.rmxRequest k = request k := by cases k <;> rfl
    simp only [← hlevel, ← hrequest]
    exact ⟨fun _ => trivial, fun _ => rmxEligible_iff, rmxLevelsOk_iff⟩
  · rw [State.presents, hmode, if_pos rfl]

end Sys2Proof.Proofs
end

section
/-! What the registers of the control block read, and what a write changes. -/

namespace Sys2Proof.Proofs

open Sys2Proof.Machine Sys2Proof.Safety

/-! ### The DMA registers -/

theorem chan_setChan_same (s : State) (c : Channel) (d : DmaChannel) : (s.setChan c d).chan c = d := by
  cases c <;> rfl

theorem chan_setChan_other (s : State) (c : Channel) (d : DmaChannel) :
    (s.setChan c d).chan c.other = s.chan c.other := by
  cases c <;> rfl

/-- ST/STOP as a write of the control word leaves it: CHG/NOCHG says whether it is written (R78). -/
def startBit (old v : Word) : Bool := if v.getLsbD 2 then v.getLsbD 1 else old.getLsbD 1

theorem writeCtrl_getLsbD (old v : Word) {i : Nat} (hi : i < 16) :
    (writeCtrl old v).getLsbD i =
      if i = 1 then startBit old v else if i = 2 ∨ i = 3 then false else v.getLsbD i := by
  rw [writeCtrl, startBit]
  cases v.getLsbD 2 <;> interval_cases i <;> simp

theorem synField_writeCtrl (old v : Word) : synField (writeCtrl old v) = v.extractLsb' 6 2 := by
  refine BitVec.eq_of_getLsbD_eq fun i hi => ?_
  have hne1 : 6 + i ≠ 1 := by omega
  have hne23 : ¬ (6 + i = 2 ∨ 6 + i = 3) := by omega
  rw [synField, BitVec.getLsbD_extractLsb', BitVec.getLsbD_extractLsb', writeCtrl_getLsbD old v (by omega), if_neg hne1,
    if_neg hne23]

theorem writeReg_dmaCtrl (s : State) (c : Channel) (v : Word) :
    s.writeReg (.dmaCtrl c) v =
      if startBit (s.chan c).ctrl v = true ∧ v.extractLsb' 6 2 = 3#2 then .refused .dmaSynUnused
      else .next (s.setChan c { s.chan c with ctrl := writeCtrl (s.chan c).ctrl v }) := by
  rw [State.writeReg]
  dsimp only
  rw [writeCtrl_getLsbD _ v (by decide), if_pos rfl, synField_writeCtrl]
  refine if_congr ?_ rfl rfl
  rw [Bool.and_eq_true, decide_eq_true_eq]
  rfl

theorem setLow_eq (p : Addr) (v : Word) : setLow p v = BitVec.ofNat 20 (p.toNat / 65536 * 65536 + v.toNat) := by
  refine BitVec.eq_of_toNat_eq ?_
  have happend : (setLow p v).toNat = (p.extractLsb' 16 4).toNat * 2 ^ 16 + v.toNat := toNat_append_eq _ _
  rw [happend, BitVec.extractLsb'_toNat, BitVec.toNat_ofNat, Nat.shiftRight_eq_div_pow]
  omega

theorem setHigh_eq (p : Addr) (v : Word) : setHigh p v = BitVec.ofNat 20 (v.toNat % 16 * 65536 + p.toNat % 65536) := by
  refine BitVec.eq_of_toNat_eq ?_
  have happend : (setHigh p v).toNat = (v.extractLsb' 0 4).toNat * 2 ^ 16 + (p.extractLsb' 0 16).toNat :=
    toNat_append_eq _ _
  rw [happend, BitVec.extractLsb'_toNat, BitVec.extractLsb'_toNat, BitVec.toNat_ofNat, Nat.shiftRight_zero,
    Nat.shiftRight_zero]
  omega

theorem pointer_low (p : Addr) : (p.extractLsb' 0 16).toNat = p.toNat % 65536 := by
  rw [BitVec.extractLsb'_toNat, Nat.shiftRight_zero]

theorem highWord_low (s : State) (p : Addr) : (s.highWord p).toNat % 16 = p.toNat / 65536 := by
  have happend : (s.highWord p).toNat = (s.freeWord.extractLsb' 4 12).toNat * 2 ^ 4 + (p.extractLsb' 16 4).toNat :=
    toNat_append_eq _ _
  rw [happend, BitVec.extractLsb'_toNat (x := p), Nat.shiftRight_eq_div_pow]
  omega

/-! ### The words of the interrupt controller, bit by bit -/

theorem sourceWord_bits (f : IntSource → Bool) :
    (sourceWord f).getLsbD 0 = f .tmr ∧ (sourceWord f).getLsbD 2 = f .d0 ∧ (sourceWord f).getLsbD 3 = f .d1 ∧
      (sourceWord f).getLsbD 4 = f .i0 ∧ (sourceWord f).getLsbD 5 = f .i1 ∧ (sourceWord f).getLsbD 6 = f .i2 ∧
      (sourceWord f).getLsbD 7 = f .i3 := by
  unfold sourceWord
  generalize f .tmr = tmr, f .d0 = d0, f .d1 = d1, f .i0 = i0, f .i1 = i1, f .i2 = i2, f .i3 = i3
  revert tmr d0 d1 i0 i1 i2 i3
  decide +kernel

/-- The position of a source in In-Service, Request and Mask (R101). -/
def sourcePos : IntSource → Nat
  | .tmr => 0
  | .d0 => 2
  | .d1 => 3
  | .i0 => 4
  | .i1 => 5
  | .i2 => 6
  | .i3 => 7

theorem sourceWord_getLsbD (f : IntSource → Bool) (k : IntSource) : (sourceWord f).getLsbD (sourcePos k) = f k := by
  obtain ⟨htmr, hd0, hd1, hi0, hi1, hi2, hi3⟩ := sourceWord_bits f
  cases k <;> assumption

theorem sourceBit_eq (v : Word) (k : IntSource) : sourceBit v k = v.getLsbD (sourcePos k) := by cases k <;> rfl

theorem controlWord_getLsbD (c : Intc) (k : IntSource) {i : Nat} (hi : i < 16) :
    (c.controlWord k).getLsbD i =
      if i < 3 then (c.source k).pr.getLsbD i else if i = 3 then (c.source k).msk else if i = 4 then c.level k
      else if i = 5 then c.cascade k else if i = 6 then c.special k else false := by
  unfold Intc.controlWord
  generalize c.special k = special, c.cascade k = cascade, c.level k = level, (c.source k).msk = msk,
    (c.source k).pr = pr
  revert special cascade level msk pr
  interval_cases i <;> decide +kernel

theorem controlWord_priority (c : Intc) (k : IntSource) : (c.controlWord k).extractLsb' 0 3 = (c.source k).pr := by
  refine BitVec.eq_of_getLsbD_eq fun i hi => ?_
  rw [BitVec.getLsbD_extractLsb', Nat.zero_add, controlWord_getLsbD c k (by omega), if_pos hi, decide_eq_true hi,
    Bool.true_and]

theorem source_writeMask (c : Intc) (v : Word) (k : IntSource) :
    (c.writeMask v).source k = { c.source k with msk := sourceBit v k } := by
  cases k <;> rfl

theorem source_writeService (c : Intc) (v : Word) (k : IntSource) :
    (c.writeService v).source k = { c.source k with isv := sourceBit v k } := by
  cases k <;> rfl

theorem source_writeControl_same (c : Intc) (k : IntSource) (v : Word) :
    (c.writeControl k v).source k = { c.source k with pr := v.extractLsb' 0 3, msk := v.getLsbD 3 } := by
  cases k <;> rfl

theorem writeControl_other (c : Intc) {j k : IntSource} (h : j ≠ k) (v : Word) :
    (c.writeControl k v).source j = c.source j ∧ (c.writeControl k v).controlWord j = c.controlWord j := by
  cases k <;> cases j <;> simp [Intc.writeControl, Intc.setSource, Intc.source, Intc.controlWord, Intc.special,
    Intc.cascade, Intc.level] at h ⊢

/-- The bits of a control word that its source has (R102 to R104). -/
def controlMask : IntSource → Word
  | .i0 => 0x007F#16
  | .i1 => 0x007F#16
  | .i2 => 0x001F#16
  | .i3 => 0x001F#16
  | _ => 0x000F#16

theorem controlWord_writeControl (c : Intc) (k : IntSource) (v : Word) :
    (c.writeControl k v).controlWord k = v &&& controlMask k := by
  refine BitVec.eq_of_getLsbD_eq fun i hi => ?_
  rw [controlWord_getLsbD _ k hi, source_writeControl_same, BitVec.getLsbD_and]
  cases k <;> interval_cases i <;>
    simp [Intc.writeControl, Intc.level, Intc.cascade, Intc.special, Intc.setSource, controlMask]

theorem sfnmAlone_eq_false {k : IntSource} {v : Word}
    (h : v.getLsbD 6 = false ∨ v.getLsbD 5 = true ∨ (k ≠ .i0 ∧ k ≠ .i1)) : sfnmAlone k v = false := by
  rw [sfnmAlone]
  obtain h | h | ⟨h0, h1⟩ := h
  · rw [h, Bool.and_false, Bool.false_and]
  · rw [h, Bool.not_true, Bool.and_false]
  · rw [decide_eq_false h0, decide_eq_false h1]
    rfl

theorem sfnmAlone_eq_true {k : IntSource} {v : Word} (hk : k = .i0 ∨ k = .i1) (h6 : v.getLsbD 6 = true)
    (h5 : v.getLsbD 5 = false) : sfnmAlone k v = true := by
  rw [sfnmAlone, h6, h5]
  obtain rfl | rfl := hk <;> rfl

theorem statusWord_bits (c : Intc) :
    c.statusWord.getLsbD 15 = c.dhlt ∧ c.statusWord.getLsbD 2 = c.irt2 ∧ c.statusWord.getLsbD 1 = c.irt1 ∧
      c.statusWord.getLsbD 0 = c.irt0 := by
  unfold Intc.statusWord
  generalize c.dhlt = dhlt, c.irt2 = irt2, c.irt1 = irt1, c.irt0 = irt0
  revert dhlt irt2 irt1 irt0
  decide

/-! ### The slave mode's registers -/

theorem rmxWord_bits (f : RmxSource → Bool) :
    (rmxWord f).getLsbD 0 = f .t0 ∧ (rmxWord f).getLsbD 1 = false ∧ (rmxWord f).getLsbD 2 = f .d0 ∧
      (rmxWord f).getLsbD 3 = f .d1 ∧ (rmxWord f).getLsbD 4 = f .t1 ∧ (rmxWord f).getLsbD 5 = f .t2 ∧
      (rmxWord f).extractLsb' 6 10 = 0#10 := by
  unfold rmxWord
  generalize f .t0 = t0, f .d0 = d0, f .d1 = d1, f .t1 = t1, f .t2 = t2
  revert t0 d0 d1 t1 t2
  decide +kernel

theorem rmxWord_getLsbD (f : RmxSource → Bool) (k : RmxSource) : (rmxWord f).getLsbD k.levelOf.toNat = f k := by
  obtain ⟨ht0, -, hd0, hd1, ht1, ht2, -⟩ := rmxWord_bits f
  cases k <;> assumption

theorem rmxWord_getLsbD_other (f : RmxSource → Bool) {i : Nat} (h : ∀ k : RmxSource, i ≠ k.levelOf.toNat) :
    (rmxWord f).getLsbD i = false := by
  obtain ⟨-, h1, -, -, -, -, habove⟩ := rmxWord_bits f
  have ht0 : i ≠ 0 := h .t0
  have hd0 : i ≠ 2 := h .d0
  have hd1 : i ≠ 3 := h .d1
  have ht1 : i ≠ 4 := h .t1
  have ht2 : i ≠ 5 := h .t2
  by_cases hi : i = 1
  · exact hi ▸ h1
  · by_cases hi16 : i < 16
    · have hbit := congrArg (BitVec.getLsbD · (i - 6)) habove
      rwa [BitVec.getLsbD_extractLsb', decide_eq_true (by omega), Bool.true_and, BitVec.getLsbD_zero,
        Nat.add_sub_cancel' (by omega)] at hbit
    · exact BitVec.getLsbD_of_ge _ _ (by omega)

theorem low_field_eq_iff (v : Word) (x : BitVec 3) : v.extractLsb' 0 3 = x ↔ v.toNat % 8 = x.toNat := by
  rw [← BitVec.toNat_inj, BitVec.extractLsb'_toNat, Nat.shiftRight_zero]

theorem rmxEoi_of_level {c : Intc} {v : Word} {k : RmxSource} (h : v.toNat % 8 = k.levelOf.toNat) :
    c.rmxEoi v = c.setRmx k { c.rmxSource k with isv := false } := by
  rw [Intc.rmxEoi, (low_field_eq_iff v k.levelOf).2 h]
  cases k <;> rfl

theorem rmxSource_setRmx_same (c : Intc) (k : RmxSource) (x : Source) : (c.setRmx k x).rmxSource k = x := by
  cases k <;> rfl

theorem rmxSource_setRmx_other (c : Intc) {j k : RmxSource} (h : j ≠ k) (x : Source) :
    (c.setRmx k x).rmxSource j = c.rmxSource j := by
  cases k <;> cases j <;> simp [Intc.setRmx, Intc.rmxSource] at h ⊢

theorem setRmx_frame (c : Intc) (k : RmxSource) (x : Source) :
    c.setRmx k x =
      { c with rT0 := (c.setRmx k x).rT0, rD0 := (c.setRmx k x).rD0, rD1 := (c.setRmx k x).rD1
               rT1 := (c.setRmx k x).rT1, rT2 := (c.setRmx k x).rT2 } := by
  cases k <;> rfl

theorem rmxControlWord_toNat (c : Intc) (k : RmxSource) :
    (c.rmxControlWord k).toNat = (c.rmxSource k).pr.toNat + 8 * (c.rmxSource k).msk.toNat := by
  unfold Intc.rmxControlWord
  generalize (c.rmxSource k).msk = msk, (c.rmxSource k).pr = pr
  revert msk pr
  decide

/-- The level and mask fields of a word are its low four bits. -/
theorem control_fields (v : Word) : (v.extractLsb' 0 3).toNat + 8 * (v.getLsbD 3).toNat = v.toNat % 16 := by
  have hbit : (v.getLsbD 3).toNat = v.toNat / 8 % 2 := by
    rw [BitVec.getLsbD, Nat.toNat_testBit]
  rw [hbit, BitVec.extractLsb'_toNat, Nat.shiftRight_zero]
  omega

theorem ivr_field (v : Word) : (v.extractLsb' 0 8 &&& 0xF8#8).toNat = v.toNat % 256 / 8 * 8 := by
  have hbyte : ∀ b : Byte, (b &&& 0xF8#8).toNat = b.toNat / 8 * 8 := by decide
  rw [hbyte, BitVec.extractLsb'_toNat, Nat.shiftRight_zero]

theorem toNat_zero_append {n m : Nat} (x : BitVec m) : (0#n ++ x).toNat = x.toNat := by
  rw [toNat_append_eq, BitVec.toNat_ofNat, Nat.zero_mod, Nat.zero_mul, Nat.zero_add]

/-! ### The statements -/

theorem dmaCtrl_written (s : State) (c : Channel) (v : Word) :
    (startBit (s.chan c).ctrl v = true ∧ v.extractLsb' 6 2 = 3#2 → s.writeReg (.dmaCtrl c) v = .refused .dmaSynUnused) ∧
      (¬ (startBit (s.chan c).ctrl v = true ∧ v.extractLsb' 6 2 = 3#2) →
        ∃ t, s.writeReg (.dmaCtrl c) v = .next t ∧ t.chan c.other = s.chan c.other ∧ t = { s with dma := t.dma } ∧
          ∀ i, i < 16 → (t.readReg (.dmaCtrl c)).1.getLsbD i =
            if i = 1 then startBit (s.chan c).ctrl v else if i = 2 ∨ i = 3 then false else v.getLsbD i) := by
  rw [writeReg_dmaCtrl]
  refine ⟨fun h => if_pos h, fun h => ⟨_, if_neg h, chan_setChan_other s c _, rfl, fun i hi => ?_⟩⟩
  rw [State.readReg]
  dsimp only
  rw [chan_setChan_same]
  exact writeCtrl_getLsbD _ v hi

theorem dmaPointers (s : State) (c : Channel) (v : Word) :
    s.writeReg (.dmaSrcLow c) v =
        .next (s.setChan c { s.chan c with
          src := BitVec.ofNat 20 ((s.chan c).src.toNat / 65536 * 65536 + v.toNat) }) ∧
      s.writeReg (.dmaSrcHigh c) v =
        .next (s.setChan c { s.chan c with
          src := BitVec.ofNat 20 (v.toNat % 16 * 65536 + (s.chan c).src.toNat % 65536) }) ∧
      s.writeReg (.dmaDstLow c) v =
        .next (s.setChan c { s.chan c with
          dst := BitVec.ofNat 20 ((s.chan c).dst.toNat / 65536 * 65536 + v.toNat) }) ∧
      s.writeReg (.dmaDstHigh c) v =
        .next (s.setChan c { s.chan c with
          dst := BitVec.ofNat 20 (v.toNat % 16 * 65536 + (s.chan c).dst.toNat % 65536) }) := by
  simp only [State.writeReg, setLow_eq, setHigh_eq, and_self]

/-- The control word of each source reads what is stored of it. -/
theorem srcCtrl_reads (s : State) (k : IntSource) :
    (s.intc.controlWord k).extractLsb' 0 3 = (s.intc.source k).pr ∧
      (s.intc.controlWord k).getLsbD 3 = (s.intc.source k).msk ∧ (s.intc.controlWord k).getLsbD 4 = s.intc.level k ∧
      (s.intc.controlWord k).getLsbD 5 = s.intc.cascade k ∧ (s.intc.controlWord k).getLsbD 6 = s.intc.special k :=
  ⟨controlWord_priority s.intc k, controlWord_getLsbD s.intc k (by decide), controlWord_getLsbD s.intc k (by decide),
    controlWord_getLsbD s.intc k (by decide), controlWord_getLsbD s.intc k (by decide)⟩

section
variable (s : State)

theorem readReg_inService_getLsbD (k : IntSource) :
    (s.readReg .inService).1.getLsbD (sourcePos k) = (s.intc.source k).isv :=
  sourceWord_getLsbD (fun k => (s.intc.source k).isv) k

theorem readReg_intRequest_getLsbD (k : IntSource) :
    (s.readReg .intRequest).1.getLsbD (sourcePos k) = s.intRequest k :=
  sourceWord_getLsbD s.intRequest k

theorem readReg_mask_getLsbD (k : IntSource) :
    (s.readReg .mask).1.getLsbD (sourcePos k) = (s.intc.source k).msk :=
  sourceWord_getLsbD (fun k => (s.intc.source k).msk) k

theorem readReg_rmxService (i : Nat) :
    (s.readReg .rmxService).1.getLsbD i = (rmxWord fun k => (s.intc.rmxSource k).isv).getLsbD i := rfl

theorem readReg_rmxMask (i : Nat) :
    (s.readReg .rmxMask).1.getLsbD i = (rmxWord fun k => (s.intc.rmxSource k).msk).getLsbD i := rfl

theorem readReg_rmxRequest (i : Nat) :
    (s.readReg .rmxRequest).1.getLsbD i = (rmxWord s.intc.rmxRequest).getLsbD i := rfl

end

theorem writeReg_srcCtrl {s : State} {k : IntSource} {v : Word}
    (h : v.getLsbD 6 = false ∨ v.getLsbD 5 = true ∨ (k ≠ .i0 ∧ k ≠ .i1)) :
    s.writeReg (.srcCtrl k) v = .next { s with intc := s.intc.writeControl k v } := by
  rw [State.writeReg, sfnmAlone_eq_false h, if_neg Bool.false_ne_true]

/-- Settles O55. -/
theorem registerImages : Obligations.RegisterImages := by
  intro s v
  refine ⟨fun c => dmaCtrl_written s c v, fun c => ?_, ⟨rfl, toNat_zero_append s.intc.prm, rfl, rfl⟩, ?_, ?_, rfl,
    fun k hk => ?_⟩
  · intro d low high
    obtain ⟨hsrcLow, hsrcHigh, hdstLow, hdstHigh⟩ := dmaPointers s c v
    exact ⟨hsrcLow, hsrcHigh, hdstLow, hdstHigh, rfl, pointer_low d.src, rfl, highWord_low s d.src, rfl,
      pointer_low d.dst, rfl, highWord_low s d.dst, rfl, rfl⟩
  · intro bit ctrl
    have hbit (k : IntSource) : bit k = sourcePos k := by cases k <;> rfl
    simp only [hbit]
    refine ⟨fun k => ⟨readReg_inService_getLsbD s k, readReg_intRequest_getLsbD s k, readReg_mask_getLsbD s k,
        srcCtrl_reads s k⟩,
      ⟨_, rfl, fun k => ?_⟩, ⟨_, rfl, fun k => ?_⟩, fun k hk h6 h5 => ?_, fun k hk => ?_⟩
    · have hsource : (s.intc.writeMask v).source k = { s.intc.source k with msk := v.getLsbD (sourcePos k) } := by
        rw [source_writeMask, sourceBit_eq]
      refine ⟨hsource, (controlWord_getLsbD (s.intc.writeMask v) k (by decide)).trans ?_⟩
      exact congrArg Source.msk hsource
    · rw [source_writeService, sourceBit_eq]
    · rw [State.writeReg, if_pos (sfnmAlone_eq_true hk h6 h5)]
    · refine ⟨_, writeReg_srcCtrl hk, source_writeControl_same s.intc k v, ?_, ?_,
        fun j hj => writeControl_other s.intc hj v⟩
      · refine (controlWord_writeControl s.intc k v).trans ?_
        cases k <;> rfl
      · exact (readReg_mask_getLsbD _ k).trans (congrArg Source.msk (source_writeControl_same s.intc k v))
  · obtain ⟨hdhlt, hirt2, hirt1, hirt0⟩ := statusWord_bits s.intc
    exact ⟨hdhlt, hirt2, hirt1, hirt0, rfl⟩
  · have hlevel : v.toNat % 8 = k.levelOf.toNat := by
      rw [hk]
      cases k <;> rfl
    refine ⟨_, rfl, ?_⟩
    show (s.intc.rmxEoi v).rmxSource k = _ ∧ ∀ j, j ≠ k → (s.intc.rmxEoi v).rmxSource j = _
    rw [rmxEoi_of_level hlevel]
    exact ⟨rmxSource_setRmx_same _ _ _, fun j hj => rmxSource_setRmx_other _ hj _⟩

section
variable (s : State) (v : Word)

theorem rmxBit_values :
    rmxBit v .t0 = v.getLsbD 0 ∧ rmxBit v .d0 = v.getLsbD 2 ∧ rmxBit v .d1 = v.getLsbD 3 ∧
      rmxBit v .t1 = v.getLsbD 4 ∧ rmxBit v .t2 = v.getLsbD 5 := ⟨rfl, rfl, rfl, rfl, rfl⟩

theorem writeReg_rmxService :
    s.writeReg .rmxService v = .next { s with intc := { s.intc with
      rT0 := { s.intc.rT0 with isv := v.getLsbD 0 }, rD0 := { s.intc.rD0 with isv := v.getLsbD 2 }
      rD1 := { s.intc.rD1 with isv := v.getLsbD 3 }, rT1 := { s.intc.rT1 with isv := v.getLsbD 4 }
      rT2 := { s.intc.rT2 with isv := v.getLsbD 5 } } } := by
  simp only [State.writeReg, Intc.writeRmxService, RmxSource.inOrder, List.foldl, Intc.setRmx, Intc.rmxSource,
    rmxBit_values]

theorem writeReg_rmxMask :
    s.writeReg .rmxMask v = .next { s with intc := { s.intc with
      rT0 := { s.intc.rT0 with msk := v.getLsbD 0 }, rD0 := { s.intc.rD0 with msk := v.getLsbD 2 }
      rD1 := { s.intc.rD1 with msk := v.getLsbD 3 }, rT1 := { s.intc.rT1 with msk := v.getLsbD 4 }
      rT2 := { s.intc.rT2 with msk := v.getLsbD 5 } } } := by
  simp only [State.writeReg, Intc.writeRmxMask, RmxSource.inOrder, List.foldl, Intc.setRmx, Intc.rmxSource,
    rmxBit_values]

theorem writeReg_rmxRequest :
    s.writeReg .rmxRequest v = .next { s with intc := { s.intc with
      irt0 := v.getLsbD 0, irD0 := v.getLsbD 2, irD1 := v.getLsbD 3, irt1 := v.getLsbD 4
      irt2 := v.getLsbD 5 } } := by
  simp only [State.writeReg, Intc.writeRmxRequest, RmxSource.inOrder, List.foldl, Intc.setRmxRequest, rmxBit_values]

theorem rmxVector_written :
    ∃ t, s.writeReg .rmxVector v = .next t ∧ t = { s with intc := { s.intc with ivr := t.intc.ivr } } ∧
      t.intc.ivr.toNat = v.toNat % 256 / 8 * 8 ∧ (t.readReg .rmxVector).1.toNat = v.toNat % 256 / 8 * 8 :=
  ⟨_, rfl, rfl, ivr_field v, (toNat_zero_append _).trans (ivr_field v)⟩

end

theorem writeReg_rmxCtrl {s : State} {k : RmxSource} {v : Word} :
    s.writeReg (.rmxCtrl k) v =
      if v.toNat % 8 = k.levelOf.toNat then .next { s with intc := s.intc.writeRmxControl k v }
      else .refused .irmxLevel := by
  rw [State.writeReg]
  exact if_congr (low_field_eq_iff v k.levelOf) rfl rfl

/-- A control word of the slave with its own level. -/
theorem rmxCtrl_written (s : State) (k : RmxSource) (v : Word) :
    ∃ t, State.writeReg s (.rmxCtrl k) v = (if v.toNat % 8 = k.levelOf.toNat then .next t else .refused .irmxLevel) ∧
      t = { s with intc := t.intc } ∧
      t.intc.rmxSource k = { s.intc.rmxSource k with pr := v.extractLsb' 0 3, msk := v.getLsbD 3 } ∧
      (t.readReg (.rmxCtrl k)).1.toNat = v.toNat % 16 ∧
      (∀ j, j ≠ k → t.intc.rmxSource j = s.intc.rmxSource j) ∧
      t.intc = { s.intc with rT0 := t.intc.rT0, rD0 := t.intc.rD0, rD1 := t.intc.rD1, rT1 := t.intc.rT1
                             rT2 := t.intc.rT2 } := by
  have hsource := rmxSource_setRmx_same s.intc k ((s.intc.rmxSource k).control v)
  refine ⟨_, writeReg_rmxCtrl, rfl, hsource, ?_, fun j hj => rmxSource_setRmx_other s.intc hj _,
    setRmx_frame s.intc k _⟩
  refine (rmxControlWord_toNat _ k).trans ?_
  rw [Intc.writeRmxControl, hsource]
  exact control_fields v

/-- Settles O56. -/
theorem slaveModeRegisters : Obligations.SlaveModeRegisters := by
  intro s v bit c
  have hbit (k : RmxSource) : bit k = k.levelOf.toNat := by cases k <;> rfl
  simp only [hbit]
  simp only [readReg_rmxService, readReg_rmxMask, readReg_rmxRequest]
  refine ⟨fun k => ⟨rmxWord_getLsbD _ k, rmxWord_getLsbD _ k, ?_, rmxControlWord_toNat c k⟩,
    fun i hi => ⟨rmxWord_getLsbD_other _ hi, rmxWord_getLsbD_other _ hi, rmxWord_getLsbD_other _ hi⟩,
    writeReg_rmxService s v, writeReg_rmxMask s v, writeReg_rmxRequest s v,
    fun k => ⟨fun hne => ?_, fun heq => ?_⟩, ⟨rfl, toNat_zero_append c.rMask⟩,
    rmxVector_written s v, ?_, fun k => rfl⟩
  · refine (rmxWord_getLsbD _ k).trans ?_
    cases k <;> rfl
  · rw [writeReg_rmxCtrl, if_neg hne]
  · obtain ⟨t, hwrite, ht⟩ := rmxCtrl_written s k v
    rw [if_pos heq] at hwrite
    exact ⟨t, hwrite, ht⟩
  · simp only [List.forall_mem_cons]
    exact ⟨rfl, rfl, rfl, rfl, rfl, fun _ h => absurd h List.not_mem_nil⟩

end Sys2Proof.Proofs
end

section
/-! The timers: a count event, the mode word, and a service slot. -/

namespace Sys2Proof.Proofs

open Sys2Proof.Machine Sys2Proof.Safety

/-! ### One count event -/

theorem advance_of_below {t : Timer} (h : t.count + 1 ≠ t.max) : t.advance = { t with count := t.count + 1 } := by
  rw [Timer.advance, Timer.reaches, decide_eq_false h, if_neg Bool.false_ne_true]

theorem advance_of_top {t : Timer} (h : t.count + 1 = t.max) :
    t.advance = { t with
      count := 0, mc := true, riu := t.alt && !t.riu, en := t.en && (t.cont || (t.alt && !t.riu)) } := by
  rw [Timer.advance, Timer.reaches, decide_eq_true h, if_pos rfl]

/-! ### The mode word -/

theorem modeWord_bits (t : Timer) :
    t.modeWord.getLsbD 15 = t.en ∧ t.modeWord.getLsbD 14 = false ∧ t.modeWord.getLsbD 13 = t.int ∧
      t.modeWord.getLsbD 12 = t.riu ∧ t.modeWord.extractLsb' 6 6 = 0#6 ∧ t.modeWord.getLsbD 5 = t.mc ∧
      t.modeWord.getLsbD 4 = t.rtg ∧ t.modeWord.getLsbD 3 = t.p ∧ t.modeWord.getLsbD 2 = t.ext ∧
      t.modeWord.getLsbD 1 = t.alt ∧ t.modeWord.getLsbD 0 = t.cont := by
  unfold Timer.modeWord
  generalize t.en = en, t.int = int, t.riu = riu, t.mc = mc, t.rtg = rtg, t.p = p, t.ext = ext, t.alt = alt,
    t.cont = cont
  revert en int riu mc rtg p ext alt cont
  decide +kernel

theorem modeWord_undescribed (t : Timer) {i : Nat} (h : 6 ≤ i) (h' : i ≤ 11) : t.modeWord.getLsbD i = false := by
  obtain ⟨-, -, -, -, hzero, -⟩ := modeWord_bits t
  have hbit := congrArg (BitVec.getLsbD · (i - 6)) hzero
  rwa [BitVec.getLsbD_extractLsb', decide_eq_true (by omega), Bool.true_and, BitVec.getLsbD_zero,
    Nat.add_sub_cancel' h] at hbit

theorem writeMode_rest (t : Timer) (k : TimerId) (v : Word) :
    (k = .t2 → (t.writeMode k v).alt = false ∧ (t.writeMode k v).ext = false ∧ (t.writeMode k v).p = false ∧
      (t.writeMode k v).rtg = false) ∧
    (k ≠ .t2 → (t.writeMode k v).alt = v.getLsbD 1 ∧ (t.writeMode k v).ext = v.getLsbD 2 ∧
      (t.writeMode k v).p = v.getLsbD 3 ∧ (t.writeMode k v).rtg = v.getLsbD 4) := by
  cases k <;> simp [Timer.writeMode]

theorem writeMode_riu (t : Timer) (k : TimerId) (v : Word) :
    (t.writeMode k v).riu = (t.riu && (t.writeMode k v).alt) := rfl

/-! ### A service slot -/

section
variable {t : Timer} {k : TimerId} {pin : Bool}

/-- The count event of the spec, where no restart takes the edge first (R582 to R584). -/
theorem counts_eq (h : t.restarts k = false) :
    t.counts k pin =
      (t.en && (decide (k = .t2) || (t.ext && t.edge) ||
        (!t.ext && (!t.p || t.tick) && (if t.rtg then t.triggered else pin)))) := by
  have hedge (hk : k ≠ .t2) (hen : t.en = true) (hext : t.ext = false) (hrtg : t.rtg = true) : t.edge = false := by
    simpa [Timer.restarts, hk, hen, hext, hrtg] using h
  unfold Timer.counts
  cases hen : t.en with
  | false => rfl
  | true =>
    cases k with
    | t2 => rfl
    | _ => cases hext : t.ext <;> cases hrtg : t.rtg <;> simp_all

theorem slot_restart (h : t.restarts k = true) :
    t.slot k pin = { t with count := 0, triggered := true, edge := false, tick := false } := by
  rw [Timer.slot, if_pos h]
  rfl

theorem slot_idle (h : t.restarts k = false) (hc : t.counts k pin = false) :
    t.slot k pin = { t with edge := false, tick := false } := by
  rw [Timer.slot, h, if_neg Bool.false_ne_true, hc, if_neg Bool.false_ne_true]
  rfl

theorem slot_counts (h : t.restarts k = false) (hc : t.counts k pin = true) :
    t.slot k pin = { t.advance with edge := false, tick := false } := by
  rw [Timer.slot, h, if_neg Bool.false_ne_true, if_pos hc]
  rfl

end

section
variable {s : State} {k : TimerId}

/-- A slot in which the count does not reach its maximum changes the timer alone. -/
theorem timerSlot_below (h : (!(s.timers.get k).restarts k && (s.timers.get k).counts k (s.timerPin k) &&
    (s.timers.get k).reaches) = false) :
    s.timerSlot k = s.setTimer k ((s.timers.get k).slot k (s.timerPin k)) := by
  rw [State.timerSlot, h, if_neg Bool.false_ne_true]
  rfl

theorem timerSlot_top (hr : (s.timers.get k).restarts k = false)
    (hc : (s.timers.get k).counts k (s.timerPin k) = true) (ht : (s.timers.get k).reaches = true) :
    s.timerSlot k =
      (s.setTimer k { (s.timers.get k).advance with edge := false, tick := false }).timerReached k := by
  rw [State.timerSlot, slot_counts hr hc, hr, hc, ht]
  rfl

theorem get_setTimer (s : State) (k : TimerId) (t : Timer) : (s.setTimer k t).timers.get k = t := by
  cases k <;> rfl

theorem get_setTimer_other (s : State) {j k : TimerId} (h : j ≠ k) (t : Timer) :
    (s.setTimer k t).timers.get j = s.timers.get j := by
  cases k <;> cases j <;> simp [State.setTimer, Timers.set, Timers.get] at h ⊢

/-- What reaching the maximum asks for: the interrupt request of a timer with INT = 1 (R491). -/
theorem timerReached_intc (s : State) (k : TimerId) :
    (s.timerReached k).intc = { s.intc with
      irt0 := s.intc.irt0 || (decide (k = .t0) && (s.timers.get k).int)
      irt1 := s.intc.irt1 || (decide (k = .t1) && (s.timers.get k).int)
      irt2 := s.intc.irt2 || (decide (k = .t2) && (s.timers.get k).int) } := by
  cases k with
  | t0 => cases hint : s.timers.t0.int <;> simp [State.timerReached, Timers.get, Intc.timerRequest, hint]
  | t1 => cases hint : s.timers.t1.int <;> simp [State.timerReached, Timers.get, Intc.timerRequest, hint]
  | t2 => cases hint : s.timers.t2.int <;> simp [State.timerReached, Timers.get, Intc.timerRequest, hint]

theorem timerReached_other (h : k ≠ .t2) : (s.timerReached k).dma = s.dma ∧ (s.timerReached k).timers = s.timers := by
  cases k with
  | t2 => exact absurd rfl h
  | _ => exact ⟨rfl, rfl⟩

theorem timerAsks_eq (d : DmaChannel) :
    d.timerAsks = { d with tmrReqs := d.tmrReqs + (if d.ctrl.getLsbD 4 then 1 else 0) } := by
  rw [DmaChannel.timerAsks]
  cases d.ctrl.getLsbD 4 <;> rfl

theorem timerReached_chan (s : State) (c : Channel) :
    (s.timerReached .t2).chan c =
      { s.chan c with tmrReqs := (s.chan c).tmrReqs + (if (s.chan c).ctrl.getLsbD 4 then 1 else 0) } := by
  rw [← timerAsks_eq]
  cases c <;> rfl

theorem timerReached_frame (s : State) (k : TimerId) :
    s.timerReached k =
      { s with
        timers := (s.timerReached k).timers, intc := (s.timerReached k).intc, dma := (s.timerReached k).dma } := by
  cases k <;> rfl

theorem timerReached_timer_self (s : State) (k : TimerId) :
    (s.timerReached k).timers.get k = s.timers.get k := by
  cases k <;> rfl

end

theorem advance_int (t : Timer) : t.advance.int = t.int := by
  rw [Timer.advance]
  split <;> rfl

/-- A slot that reaches the maximum: the timer, the request, and what timer 2 asks of the others. -/
theorem timerSlot_at_top {s : State} {k : TimerId} (hr : (s.timers.get k).restarts k = false)
    (hc : (s.timers.get k).counts k (s.timerPin k) = true) (ht : (s.timers.get k).reaches = true) :
    let t := s.timers.get k
    let u := s.timerSlot k
    u = { s with timers := u.timers, intc := u.intc, dma := u.dma } ∧
      u.timers.get k = { t.advance with edge := false, tick := false } ∧
      u.intc = { s.intc with
        irt0 := s.intc.irt0 || (decide (k = .t0) && t.int), irt1 := s.intc.irt1 || (decide (k = .t1) && t.int)
        irt2 := s.intc.irt2 || (decide (k = .t2) && t.int) } ∧
      (k ≠ .t2 → u.dma = s.dma ∧ ∀ j, j ≠ k → u.timers.get j = s.timers.get j) ∧
      (k = .t2 → u.timers.t0 = { s.timers.t0 with tick := true } ∧ u.timers.t1 = { s.timers.t1 with tick := true } ∧
        (∀ c, u.chan c = { s.chan c with
          tmrReqs := (s.chan c).tmrReqs + (if (s.chan c).ctrl.getLsbD 4 then 1 else 0) }) ∧
        u.dma = { s.dma with ch0 := u.dma.ch0, ch1 := u.dma.ch1 }) := by
  intro t u
  have hu : u = (s.setTimer k { t.advance with edge := false, tick := false }).timerReached k := timerSlot_top hr hc ht
  rw [hu]
  refine ⟨timerReached_frame _ k, ?_, ?_, fun hk => ⟨(timerReached_other hk).1, fun j hj => ?_⟩, fun hk => ?_⟩
  · rw [timerReached_timer_self, get_setTimer]
  · rw [timerReached_intc, get_setTimer, advance_int]
    rfl
  · rw [(timerReached_other hk).2, get_setTimer_other s hj]
  · subst hk
    exact ⟨rfl, rfl, fun c => timerReached_chan _ c, rfl⟩

/-- Settles O59. -/
theorem timerCountAndMode : Obligations.TimerCountAndMode := by
  refine ⟨fun t k => ⟨⟨advance_of_below, fun h => ?_⟩, fun v => ?_⟩, fun s k v => ?_, fun s k => ?_⟩
  · rw [advance_of_top h]
    exact ⟨rfl, rfl, rfl, rfl, rfl, rfl⟩
  · intro u
    have hriu : u.riu = (t.riu && u.alt) := writeMode_riu t k v
    obtain ⟨hrest2, hrest⟩ := writeMode_rest t k v
    refine ⟨rfl, fun h => ?_, fun h => ?_, rfl, rfl, rfl, rfl, rfl, rfl, hrest2, hrest⟩
    · rw [hriu, h, Bool.and_false]
    · rw [hriu, h, Bool.and_true]
  · intro t mode
    obtain ⟨h15, h14, h13, h12, -, h5, h4, h3, h2, h1, h0⟩ := modeWord_bits t
    exact ⟨rfl, rfl, rfl, rfl, rfl, rfl, rfl, rfl, h15, h14, h13, h12, fun i => modeWord_undescribed t, h5, h4, h3, h2,
      h1, h0⟩
  · intro t pin restart event top u
    have hpin : s.timerPin k = pin := by cases k <;> rfl
    have hevent (hr : restart = false) : t.counts k (s.timerPin k) = event := hpin ▸ counts_eq hr
    refine ⟨fun rest h => step_of_agenda_cons h, fun hr => ?_, fun hr he => ?_, fun hr he ht => ?_,
      fun hr he ht => timerSlot_at_top hr ((hevent hr).trans he) ht⟩
    · have hr' : (!t.restarts k && t.counts k (s.timerPin k) && t.reaches) = false := by
        rw [show t.restarts k = true from hr]
        rfl
      exact (timerSlot_below hr').trans (congrArg (s.setTimer k) (slot_restart hr))
    · have hc := (hevent hr).trans he
      have hidle : (!t.restarts k && t.counts k (s.timerPin k) && t.reaches) = false := by
        rw [hc, Bool.and_false, Bool.false_and]
      exact (timerSlot_below hidle).trans (congrArg (s.setTimer k) (slot_idle hr hc))
    · have hbelow : (!t.restarts k && t.counts k (s.timerPin k) && t.reaches) = false := by
        rw [show t.reaches = false from ht, Bool.and_false]
      have hslot := slot_counts hr ((hevent hr).trans he)
      rw [advance_of_below (of_decide_eq_false ht)] at hslot
      exact (timerSlot_below hbelow).trans (congrArg (s.setTimer k) hslot)

end Sys2Proof.Proofs
end

section
/-! The DMA unit: one transfer, and when a channel's turn makes one. -/

namespace Sys2Proof.Proofs

open Sys2Proof.Machine Sys2Proof.Safety

/-! ### The cycles of a transfer -/

section
variable {s : State} {w : Width} {a : Addr}

theorem dmaMemFault_plain (h : plainAt s w a = true) : dmaMemFault w a s = none := by
  cases w with
  | byte =>
    obtain ⟨hb, hram⟩ := plainByte_iff.1 h
    rw [dmaMemFault, hb, vacant_byte_ram hram]
    rfl
  | word =>
    obtain ⟨hlow, hhigh⟩ := Bool.and_eq_true_iff.1 h
    obtain ⟨hb, hram⟩ := plainByte_iff.1 hlow
    obtain ⟨hb', hram'⟩ := plainByte_iff.1 hhigh
    rw [dmaMemFault, hb, hb', vacant_ram hram hram']
    rfl

theorem plainPortByte_iff {p : Word} :
    plainPortByte s p = true ↔ reservedPort p = false ∧ s.blockInIO p = false ∧ deviceIn s.ioMap p.toNat = true := by
  simp only [plainPortByte, Bool.and_eq_true, Bool.not_eq_true', and_assoc]

theorem dmaPortFault_plain (hrange : a.extractLsb' 16 4 = 0#4) (h : plainPort s w (a.extractLsb' 0 16) = true) :
    dmaPortFault w a s = none := by
  cases w with
  | byte =>
    obtain ⟨hr, hb, hd⟩ := plainPortByte_iff.1 h
    rw [dmaPortFault, hr, hb, State.vacantPort, hd, hrange]
    rfl
  | word =>
    obtain ⟨hlow, hhigh⟩ := Bool.and_eq_true_iff.1 h
    obtain ⟨hr, hb, hd⟩ := plainPortByte_iff.1 hlow
    obtain ⟨hr', hb', hd'⟩ := plainPortByte_iff.1 hhigh
    rw [dmaPortFault, hr, hr', hb, hb', State.vacantPort, hd, hd', hrange]
    rfl

theorem dmaPlain_cases {mem : Bool} (h : dmaPlain s mem w a = true) :
    (mem = true ∧ plainAt s w a = true) ∨
      (mem = false ∧ a.extractLsb' 16 4 = 0#4 ∧ plainPort s w (a.extractLsb' 0 16) = true) := by
  cases mem with
  | true => exact .inl ⟨rfl, h⟩
  | false =>
    obtain ⟨hrange, hport⟩ := Bool.and_eq_true_iff.1 h
    exact .inr ⟨rfl, of_decide_eq_true hrange, hport⟩

/-- The read of a transfer, from memory or a port, whole or in the order of the byte cycles. -/
theorem dmaRead_plain {mem : Bool} (hu : s.uncut = true) (h : dmaPlain s mem w a = true) :
    (if mem then dmaReadMem else dmaReadPort) w a s = .next (dmaValue s mem w a) := by
  obtain ⟨rfl, hplain⟩ | ⟨rfl, hrange, hport⟩ := dmaPlain_cases h
  · show dmaReadMem w a s = _
    unfold dmaReadMem
    rw [dmaMemFault_plain hplain]
    cases w with
    | byte => exact congrArg _ (presentByte_ram (plainByte_iff.1 hplain).2)
    | word =>
      obtain ⟨hlow, hhigh⟩ := Bool.and_eq_true_iff.1 hplain
      dsimp only
      rw [wordReadCycles, splits_uncut hu]
      exact congrArg _ (presentWord_ram (plainByte_iff.1 hlow).2 (plainByte_iff.1 hhigh).2)
  · show dmaReadPort w a s = _
    unfold dmaReadPort
    rw [dmaPortFault_plain hrange hport]
    cases w with
    | byte => rfl
    | word =>
      dsimp only
      rw [portReadCycles, splits_uncut hu]
      rfl

theorem dmaWrite_plain {mem : Bool} (hu : s.uncut = true) (h : dmaPlain s mem w a = true) (v : BitVec w.bits) :
    (if mem then dmaWriteMem else dmaWritePort) w a v s = .next (dmaStored s mem w a v) := by
  obtain ⟨rfl, hplain⟩ | ⟨rfl, hrange, hport⟩ := dmaPlain_cases h
  · show dmaWriteMem w a v s = _
    unfold dmaWriteMem
    rw [dmaMemFault_plain hplain]
    cases w with
    | byte => exact congrArg _ (driveByte_ram (plainByte_iff.1 hplain).2 v)
    | word =>
      obtain ⟨hlow, hhigh⟩ := Bool.and_eq_true_iff.1 hplain
      dsimp only
      rw [wordWriteCycles, splits_uncut hu]
      exact congrArg _ (driveWord_ram (plainByte_iff.1 hlow).2 (plainByte_iff.1 hhigh).2 v)
  · show dmaWritePort w a v s = _
    unfold dmaWritePort
    rw [dmaPortFault_plain hrange hport]
    cases w with
    | byte => rfl
    | word =>
      dsimp only
      rw [portWriteCycles, splits_uncut hu]
      have hv : v.setWidth 16 = v := BitVec.setWidth_eq v
      show Host.Outcome.next (s.logPort (a.extractLsb' 0 16) true v) =
        .next (s.logPort (a.extractLsb' 0 16) true (v.setWidth 16))
      rw [hv]

theorem resetBeforeStore_uncut (hu : s.uncut = true) : resetBeforeStore s = .next s := by
  unfold State.uncut at hu
  unfold resetBeforeStore
  split at hu <;> simp_all

theorem dmaValue_drawn (s : State) (mem : Bool) (w : Width) (a : Addr) : ∃ n, (dmaValue s mem w a).2 = s.drawn n := by
  cases mem with
  | true => exact ⟨0, rfl⟩
  | false => exact portValue_drawn s w _

/-- What a transfer stores is in memory or in the record of port writes, and nothing else changes. -/
theorem dmaStored_frame (s : State) (mem : Bool) (w : Width) (a : Addr) (v : BitVec w.bits) :
    ∃ m stale portLog, dmaStored s mem w a v = { s with mem := m, stale := stale, portLog := portLog } := by
  cases mem <;> cases w <;> exact ⟨_, _, _, rfl⟩

end

/-! ### A transfer -/

/-- The state that the two cycles of a transfer leave, before the channel's registers move. -/
def dmaCopied (s : State) (c : Channel) : State :=
  let d := s.chan c
  let v := dmaValue s (d.ctrl.getLsbD 12) (ctrlWidth d.ctrl) d.src
  dmaStored v.2 (d.ctrl.getLsbD 15) (ctrlWidth d.ctrl) d.dst v.1

/-- The element that a transfer copies. -/
def dmaElement (s : State) (c : Channel) : Word :=
  (dmaValue s ((s.chan c).ctrl.getLsbD 12) (ctrlWidth (s.chan c).ctrl) (s.chan c).src).1.setWidth 16

theorem dmaCopied_frame (s : State) (c : Channel) :
    ∃ mem stale portLog free,
      dmaCopied s c = { s with mem := mem, stale := stale, portLog := portLog, free := free } := by
  obtain ⟨n, hn⟩ := dmaValue_drawn s ((s.chan c).ctrl.getLsbD 12) (ctrlWidth (s.chan c).ctrl) (s.chan c).src
  obtain ⟨mem, stale, portLog, hstored⟩ := dmaStored_frame
    (dmaValue s ((s.chan c).ctrl.getLsbD 12) (ctrlWidth (s.chan c).ctrl) (s.chan c).src).2 ((s.chan c).ctrl.getLsbD 15)
    (ctrlWidth (s.chan c).ctrl) (s.chan c).dst
    (dmaValue s ((s.chan c).ctrl.getLsbD 12) (ctrlWidth (s.chan c).ctrl) (s.chan c).src).1
  refine ⟨mem, stale, portLog, s.free + n, hstored.trans ?_⟩
  rw [hn]
  rfl

theorem dmaTransfer_plain {s : State} {c : Channel} (hu : s.uncut = true)
    (hsyn : (s.chan c).ctrl.extractLsb' 6 2 ≠ 3#2)
    (hsrc : dmaPlain s ((s.chan c).ctrl.getLsbD 12) (ctrlWidth (s.chan c).ctrl) (s.chan c).src = true)
    (hdst : dmaPlain s ((s.chan c).ctrl.getLsbD 15) (ctrlWidth (s.chan c).ctrl) (s.chan c).dst = true) :
    dmaTransfer c s = .next ((dmaCopied s c).dmaDone c (dmaElement s c)) := by
  obtain ⟨n, hn⟩ := dmaValue_drawn s ((s.chan c).ctrl.getLsbD 12) (ctrlWidth (s.chan c).ctrl) (s.chan c).src
  have hsyn' : synField (s.chan c).ctrl ≠ 3 := hsyn
  rw [dmaTransfer, if_neg hsyn', dmaRead_plain hu hsrc, dmaCopied, dmaElement, hn]
  show andThen (resetBeforeStore (dmaValue _ _ _ _).2) _ = _
  rw [hn, resetBeforeStore_uncut (s := s.drawn n) hu, andThen_next]
  rw [dmaWrite_plain (s := s.drawn n) hu hdst, andThen_next]
  rfl

/-! ### The channel's registers -/

theorem movePointer_eq (inc dec : Bool) (ctrl : Word) (p : Addr) :
    movePointer inc dec (ctrlWidth ctrl) p =
      if inc = dec then p
      else if inc then p + (if ctrl.getLsbD 0 then 2 else 1) else p - (if ctrl.getLsbD 0 then 2 else 1) := by
  unfold movePointer ctrlWidth
  cases inc <;> cases dec <;> cases ctrl.getLsbD 0 <;> rfl

theorem terminates_eq (ctrl count : Word) :
    terminates ctrl (count - 1) =
      (decide (count = 1) && (ctrl.getLsbD 9 || decide (ctrl.extractLsb' 6 2 = 0#2))) := by
  rw [terminates, synField, decide_eq_decide.2 (sub_one_eq_zero_iff count)]
  rfl

theorem servesTimer_iff (s : State) (c : Channel) :
    s.servesTimer c = true ↔
      (s.chan c).ctrl.extractLsb' 6 2 ≠ 0#2 ∧ (s.chan c).ctrl.getLsbD 4 = true ∧ s.drq c = false := by
  rw [State.servesTimer, synField, Bool.and_eq_true, Bool.and_eq_true, Bool.not_eq_true', decide_eq_true_iff, and_assoc]
  rfl

theorem chan_dmaDone (s : State) (c : Channel) (v : Word) :
    (s.dmaDone c v).chan c = (s.chan c).after (s.servesTimer c) v := by
  cases c <;> rfl

theorem chan_other_dmaDone (s : State) (c : Channel) (v : Word) : (s.dmaDone c v).chan c.other = s.chan c.other := by
  cases c <;> rfl

theorem intc_dmaDone (s : State) (c : Channel) (v : Word) :
    (s.dmaDone c v).intc =
      match c with
      | .c0 => { s.intc with
          irD0 := s.intc.irD0 ||
            (terminates (s.chan c).ctrl ((s.chan c).count - 1) && (s.chan c).ctrl.getLsbD 8) }
      | .c1 => { s.intc with
          irD1 := s.intc.irD1 ||
            (terminates (s.chan c).ctrl ((s.chan c).count - 1) && (s.chan c).ctrl.getLsbD 8) } := by
  unfold State.dmaDone
  dsimp only
  generalize (terminates (s.chan c).ctrl ((s.chan c).count - 1) && (s.chan c).ctrl.getLsbD 8) = asks
  cases c <;> cases asks <;> simp [Intc.dmaRequest]

/-- A transfer from memory to memory is a load and a store. -/
theorem dmaStored_memory {s : State} {w : Width} {src dst : Addr} {m n : Bool} (hm : m = true) (hn : n = true) :
    dmaStored (dmaValue s m w src).2 n w dst (dmaValue s m w src).1 = storeAt s w dst (valueAt s w src) := by
  subst hm hn
  rfl

theorem copied_byte {s u : State} {w : Width} {src dst : Addr} (hw : w = .byte) (hwf : s.mem.wf = true)
    (hu : u.mem = (storeAt s w dst (valueAt s w src)).mem) :
    u.loadByte dst = s.loadByte src ∧ ∀ a, a ≠ dst → u.loadByte a = s.loadByte a := by
  subst hw
  have hload (a : Addr) : u.loadByte a = (s.storeByte dst (s.loadByte src)).loadByte a :=
    congrArg (Memory.get · a.toNat) hu
  exact ⟨(hload dst).trans (State.loadByte_storeByte hwf dst _),
    fun a ha => (hload a).trans (State.loadByte_storeByte_ne s ha _)⟩

theorem copied_word {s u : State} {w : Width} {src dst : Addr} (hw : w = .word) (hwf : s.mem.wf = true)
    (hu : u.mem = (storeAt s w dst (valueAt s w src)).mem) :
    u.loadWord dst = s.loadWord src ∧ ∀ a, a ≠ dst → a ≠ dst + 1 → u.loadByte a = s.loadByte a := by
  subst hw
  have hload (a : Addr) : u.loadByte a = (s.storeWord dst (s.loadWord src)).loadByte a :=
    congrArg (Memory.get · a.toNat) hu
  exact ⟨(loadWord_congr hu dst).trans (State.loadWord_storeWord hwf dst _),
    fun a ha ha' => (hload a).trans (State.loadByte_storeWord_ne s ha ha' _)⟩

theorem ctrlWidth_byte {ctrl : Word} (h : ctrl.getLsbD 0 = false) : ctrlWidth ctrl = .byte := by
  rw [ctrlWidth, h, if_neg Bool.false_ne_true]

theorem ctrlWidth_word {ctrl : Word} (h : ctrl.getLsbD 0 = true) : ctrlWidth ctrl = .word := by
  rw [ctrlWidth, if_pos h]

/-- Settles O57. -/
theorem dmaTransferResults : Obligations.DmaTransferResults := by
  intro s c d w n v u hu hsyn hsrc hdst
  obtain ⟨mem, stale, portLog, free, hcopied⟩ := dmaCopied_frame s c
  have hdone : (dmaCopied s c).dmaDone c (dmaElement s c) =
      { s with mem := mem, stale := stale, portLog := portLog, free := free : State }.dmaDone c (dmaElement s c) := by
    rw [hcopied]
  have hchan : (dmaCopied s c).chan c = d := by
    rw [hcopied]
    rfl
  have hserves : (dmaCopied s c).servesTimer c = s.servesTimer c := by
    rw [hcopied]
    cases c <;> rfl
  have hmem (hm : d.ctrl.getLsbD 12 = true) (hm' : d.ctrl.getLsbD 15 = true) :
      ((dmaCopied s c).dmaDone c (dmaElement s c)).mem = (storeAt s w d.dst (valueAt s w d.src)).mem := by
    have hstored : dmaCopied s c = storeAt s w d.dst (valueAt s w d.src) := dmaStored_memory hm hm'
    rw [← hstored]
    rfl
  refine ⟨_, dmaTransfer_plain hu hsyn hsrc hdst, rfl, rfl, rfl,
    fun hwf h0 hm hm' => copied_byte (ctrlWidth_byte h0) hwf (hmem hm hm'),
    fun hwf h0 hm hm' => copied_word (ctrlWidth_word h0) hwf (hmem hm hm'),
    ?_, ?_, ?_, ⟨?_, ?_⟩, ?_, ?_, ?_, ?_, ?_, ?_⟩
  · rw [chan_dmaDone, hchan]
    exact movePointer_eq _ _ d.ctrl d.src
  · rw [chan_dmaDone, hchan]
    exact movePointer_eq _ _ d.ctrl d.dst
  · rw [chan_dmaDone, hchan]
    rfl
  · rw [chan_dmaDone, hchan, ← terminates_eq]
    rfl
  · rw [intc_dmaDone, hchan, terminates_eq, hcopied] <;> cases c <;> rfl
  · rw [chan_dmaDone]
    rfl
  · rw [chan_dmaDone]
    rfl
  · rw [chan_dmaDone, hchan, hserves]
    exact if_congr (servesTimer_iff s c) rfl rfl
  · rw [hdone]
    cases c <;> rfl
  · rw [chan_other_dmaDone, hcopied]
    rfl
  · rw [hdone]
    exact ⟨rfl, rfl, rfl, rfl⟩

/-! ### A channel's turn -/

section
variable {s : State} {c : Channel}

theorem dmaTurn_waits (h : s.granted = true ∨ s.locked = true ∨ s.dmaMayGo c = false) : dmaTurn c s = .next s := by
  have hno : (!s.granted && !s.locked && s.dmaMayGo c) = false := by
    obtain h | h | h := h <;> simp [h]
  rw [dmaTurn, hno, if_neg Bool.false_ne_true]

theorem dmaTurn_goes (hg : s.granted = false) (hl : s.locked = false) (h : s.dmaMayGo c = true) :
    dmaTurn c s = dmaTransfer c s := by
  rw [dmaTurn, hg, hl, h]
  rfl

theorem dmaReady_iff :
    s.dmaReady c = true ↔ (s.chan c).ctrl.getLsbD 1 = true ∧ s.intc.dhlt = false ∧
      ((s.chan c).ctrl.extractLsb' 6 2 = 0#2 ∨ (s.chan c).ctrl.extractLsb' 6 2 = 3#2 ∨ s.dmaRequested c = true) := by
  simp only [State.dmaReady, Bool.and_eq_true, Bool.or_eq_true, decide_eq_true_eq, Bool.not_eq_true',
    and_assoc, or_assoc]
  rfl

theorem dmaWins_iff :
    s.dmaWins c = true ↔
      ((s.chan c).ctrl.getLsbD 5 = true ∧ (s.chan c.other).ctrl.getLsbD 5 = false) ∨
        ((s.chan c).ctrl.getLsbD 5 = (s.chan c.other).ctrl.getLsbD 5 ∧
          (s.dma.last ≠ c ∨ s.dma.ch0.ran = false ∨ s.dma.ch1.ran = false)) := by
  rw [State.dmaWins]
  cases (s.chan c).ctrl.getLsbD 5 <;> cases (s.chan c.other).ctrl.getLsbD 5 <;> simp [or_assoc]

theorem dmaMayGo_iff :
    s.dmaMayGo c = true ↔ s.dmaReady c = true ∧ (s.dmaReady c.other = false ∨ s.dmaWins c = true) := by
  rw [State.dmaMayGo, Bool.and_eq_true, Bool.or_eq_true, Bool.not_eq_true']

theorem ne_iff_eq_other (d c : Channel) : d ≠ c ↔ d = c.other := by
  cases d <;> cases c <;> simp [Channel.other]

end

/-- Settles O58. -/
theorem dmaGoesInItsTurn : Obligations.DmaGoesInItsTurn := by
  intro s c d e asks
  refine ⟨fun h => dmaTurn_waits ?_, fun hst hdhlt hl hg hasks hturn => dmaTurn_goes hg hl ?_, ⟨rfl, rfl⟩,
    fun hu hlock hv hroom => ?_⟩
  · rw [← Bool.not_eq_true (s.dmaMayGo c), dmaMayGo_iff, dmaReady_iff, dmaWins_iff]
    obtain h | h | h | h | ⟨hsyn, hno⟩ | ⟨ho, hp, hq⟩ | ⟨ho, hpq, hran0, hran1, hlast⟩ := h
    · exact .inr (.inr fun ⟨⟨hst, _⟩, _⟩ => Bool.false_ne_true (h.symm.trans hst))
    · exact .inr (.inr fun ⟨⟨_, hdhlt, _⟩, _⟩ => Bool.false_ne_true (hdhlt.symm.trans h))
    · exact .inr (.inl h)
    · exact .inl h
    · refine .inr (.inr fun ⟨⟨_, _, hready⟩, _⟩ => ?_)
      have hno' : s.dmaRequested c = false := hno
      change d.ctrl.extractLsb' 6 2 = 0#2 ∨ d.ctrl.extractLsb' 6 2 = 3#2 ∨ _ at hready
      rw [hno'] at hready
      obtain hsyn | hsyn := hsyn <;> rw [hsyn] at hready <;> exact absurd hready (by decide)
    · refine .inr (.inr fun ⟨_, hturn⟩ => ?_)
      obtain h | ⟨h, -⟩ | ⟨h, -⟩ := hturn
      · exact Bool.false_ne_true (h.symm.trans ho)
      · exact Bool.false_ne_true (hp.symm.trans h)
      · exact Bool.false_ne_true (hp.symm.trans (h.trans hq))
    · refine .inr (.inr fun ⟨_, hturn⟩ => ?_)
      obtain h | ⟨h, h'⟩ | ⟨-, h | h | h⟩ := hturn
      · exact Bool.false_ne_true (h.symm.trans ho)
      · exact Bool.false_ne_true (h'.symm.trans (hpq.symm.trans h))
      · exact h hlast
      · exact Bool.false_ne_true (h.symm.trans hran0)
      · exact Bool.false_ne_true (h.symm.trans hran1)
  · rw [dmaMayGo_iff, dmaReady_iff, dmaWins_iff, ne_iff_eq_other]
    refine ⟨⟨hst, hdhlt, hasks.imp_right .inr⟩, hturn⟩
  · refine ⟨_, takeNmi_plain hu hlock hv hroom, rfl, rfl, dmaTurn_waits (.inr (.inr ?_))⟩
    rw [← Bool.not_eq_true, dmaMayGo_iff, dmaReady_iff]
    exact fun ⟨⟨_, hdhlt, _⟩, _⟩ => Bool.false_ne_true hdhlt.symm

end Sys2Proof.Proofs
end

section
/-! The chip selects: the ranges that the registers describe, and when two of them overlap. -/

namespace Sys2Proof.Proofs

open Sys2Proof.Machine Sys2Proof.Safety

/-! ### The ranges -/

/-- Bits that a mask keeps may be cleared by a wider one first. -/
theorem and_and_of_and_eq {n : Nat} {x m v : BitVec n} (h : x &&& m = v) {k : BitVec n} (hk : m &&& k = k) :
    x &&& k = v &&& k := by
  rw [← h, BitVec.and_assoc, hk]

theorem or_eq_of_and_eq {x v : Word} (h : x &&& 0xFFF8#16 = v) : x ||| 0x003F#16 = v ||| 0x003F#16 := by
  subst h
  refine BitVec.eq_of_getLsbD_eq fun i hi => ?_
  rw [BitVec.getLsbD_or, BitVec.getLsbD_or, BitVec.getLsbD_and]
  interval_cases i <;> simp

/-- A legal starting address of Table 7. -/
theorem upperSpan_of_legal {c : ChipSel} {v : Word} {first : Nat}
    (hv : (v, first) ∈ [(0xFFF8#16, 0xFFC00), (0xFFB8#16, 0xFF800), (0xFF38#16, 0xFF000), (0xFE38#16, 0xFE000),
      (0xFC38#16, 0xFC000), (0xF838#16, 0xF8000), (0xF038#16, 0xF0000), (0xE038#16, 0xE0000), (0xC038#16, 0xC0000)])
    (h : c.umcs &&& 0xFFF8#16 = v) : c.upperSpan = some { first := first, past := 0x100000 } := by
  have htable : ∀ p ∈ [(0xFFF8#16, 0xFFC00), (0xFFB8#16, 0xFF800), (0xFF38#16, 0xFF000), (0xFE38#16, 0xFE000),
      (0xFC38#16, 0xFC000), (0xF838#16, 0xF8000), (0xF038#16, 0xF0000), (0xE038#16, 0xE0000), (0xC038#16, 0xC0000)],
      umcsLegal p.1 = true ∧ p.1 &&& 0xFFF8#16 = p.1 ∧ (p.1 &&& 0xFFC0#16).toNat * 16 = p.2 := by decide
  obtain ⟨hlegal, hkept, hfirst⟩ := htable _ hv
  dsimp only at hlegal hkept hfirst
  have hlegal' : umcsLegal c.umcs = true := by
    rw [umcsLegal, h]
    rwa [umcsLegal, hkept] at hlegal
  have hmask : c.umcs &&& 0xFFC0#16 = v &&& 0xFFC0#16 := and_and_of_and_eq h (by decide)
  rw [ChipSel.upperSpan, if_pos hlegal', hmask, hfirst]

/-- A legal limit of Table 8. -/
theorem lowerSpan_of_legal {c : ChipSel} {v : Word} {last : Nat}
    (hv : (v, last) ∈ [(0x0038#16, 0x003FF), (0x0078#16, 0x007FF), (0x00F8#16, 0x00FFF), (0x01F8#16, 0x01FFF),
      (0x03F8#16, 0x03FFF), (0x07F8#16, 0x07FFF), (0x0FF8#16, 0x0FFFF), (0x1FF8#16, 0x1FFFF), (0x3FF8#16, 0x3FFFF)])
    (h : c.lmcs &&& 0xFFF8#16 = v) (hon : c.lmcsOn = true) :
    c.lowerSpan = some { first := 0, past := last + 1 } := by
  have htable : ∀ p ∈ [(0x0038#16, 0x003FF), (0x0078#16, 0x007FF), (0x00F8#16, 0x00FFF), (0x01F8#16, 0x01FFF),
      (0x03F8#16, 0x03FFF), (0x07F8#16, 0x07FFF), (0x0FF8#16, 0x0FFFF), (0x1FF8#16, 0x1FFFF), (0x3FF8#16, 0x3FFFF)],
      lmcsLegal p.1 = true ∧ p.1 &&& 0xFFF8#16 = p.1 ∧ ((p.1 ||| 0x003F#16).toNat + 1) * 16 = p.2 + 1 := by decide
  obtain ⟨hlegal, hkept, hlast⟩ := htable _ hv
  dsimp only at hlegal hkept hlast
  have hlegal' : lmcsLegal c.lmcs = true := by
    rw [lmcsLegal, h]
    rwa [lmcsLegal, hkept] at hlegal
  rw [ChipSel.lowerSpan, hon, hlegal', or_eq_of_and_eq h, hlast]
  rfl

theorem midBase_eq (mmcs : Word) : midBase mmcs = mmcs.toNat / 512 * 0x2000 := by
  rw [midBase, BitVec.extractLsb'_toNat, Nat.shiftRight_eq_div_pow]
  omega

theorem periphBase_eq (pacs : Word) : periphBase pacs = pacs.toNat / 64 * 1024 := by
  rw [periphBase, BitVec.extractLsb'_toNat, Nat.shiftRight_eq_div_pow]
  omega

/-- A legal block size of Table 9. -/
theorem midSize_of_legal {mpcs : Word} {m : BitVec 7} {size : Nat}
    (hm : (m, size) ∈ [(1#7, 0x2000), (2#7, 0x4000), (4#7, 0x8000), (8#7, 0x10000), (16#7, 0x20000), (32#7, 0x40000),
      (64#7, 0x80000)]) (h : mpcs.extractLsb' 8 7 = m) : midSize mpcs = some size ∧ 4 ∣ size := by
  rw [midSize, h]
  simp only [List.mem_cons, Prod.mk.injEq, List.not_mem_nil, or_false] at hm
  obtain ⟨rfl, rfl⟩ | ⟨rfl, rfl⟩ | ⟨rfl, rfl⟩ | ⟨rfl, rfl⟩ | ⟨rfl, rfl⟩ | ⟨rfl, rfl⟩ | ⟨rfl, rfl⟩ := hm <;>
    exact ⟨rfl, by decide⟩

theorem midSpan_of_legal {c : ChipSel} {size : Nat} (hsize : midSize c.mpcs = some size) (hm : c.mmcsOn = true)
    (hp : c.mpcsOn = true) (hbase : midBase c.mmcs % size = 0) (hwhole : size = 0x80000 → midBase c.mmcs = 0) :
    c.midSpan = some { first := midBase c.mmcs, past := midBase c.mmcs + size } := by
  have hwhole' : (decide (size ≠ 0x80000) || decide (midBase c.mmcs = 0)) = true := by
    rw [Bool.or_eq_true, decide_eq_true_iff, decide_eq_true_iff]
    exact (em (size = 0x80000)).symm.imp_right hwhole
  rw [ChipSel.midSpan, hsize]
  dsimp only
  rw [hm, hp, decide_eq_true hbase, hwhole']
  rfl

/-! ### The lines -/

theorem upper_holds (first : Nat) (a : Addr) :
    Span.holds { first := first, past := 0x100000 } a.toNat = decide (first ≤ a.toNat) := by
  have hlt : a.toNat < 0x100000 := a.isLt
  rw [Span.holds, decide_eq_true hlt, Bool.and_true]

theorem ucs_of_span {c : ChipSel} {first : Nat} (hspan : c.upperSpan = some { first := first, past := 0x100000 })
    (h : c.overlapped .upper = false) (a : Addr) : c.ucs a = some (decide (first ≤ a.toNat)) := by
  rw [ChipSel.ucs, h, if_neg Bool.false_ne_true, hspan, Option.map_some, upper_holds]

theorem lcs_of_span {c : ChipSel} {last : Nat} (hon : c.lmcsOn = true)
    (hspan : c.lowerSpan = some { first := 0, past := last + 1 }) (h : c.overlapped .lower = false) (a : Addr) :
    c.lcs a = some (decide (a.toNat ≤ last)) := by
  have hle : decide (a.toNat < last + 1) = decide (a.toNat ≤ last) := decide_eq_decide.2 Nat.lt_succ_iff
  rw [ChipSel.lcs, hon, h, hspan, Option.map_some, Span.holds, hle, decide_eq_true (Nat.zero_le _)]
  rfl

theorem mcs_of_span {c : ChipSel} {base size : Nat} (hm : c.mmcsOn = true) (hp : c.mpcsOn = true)
    (hspan : c.midSpan = some { first := base, past := base + size }) (h : c.overlapped .mid = false)
    (hquarter : 4 ∣ size) (k : Fin 4) (a : Addr) :
    c.mcs k a =
      some (decide (base + k.val * size / 4 ≤ a.toNat ∧ a.toNat < base + (k.val + 1) * size / 4)) := by
  rw [ChipSel.mcs, hm, hp, h, hspan, Option.map_some, Span.holds, Bool.decide_and, Nat.add_sub_cancel_left,
    Nat.mul_div_assoc _ hquarter, Nat.mul_div_assoc _ hquarter]
  rfl

theorem pcs_of_legal {c : ChipSel} {k : Fin 7} {io : Bool} {x : Nat} (hp : c.pacsOn = true) (hm : c.mpcsOn = true)
    (hk : k.val < 5 ∨ c.mpcs.getLsbD 7 = true) (hspace : c.mpcs.getLsbD 6 = true ∨ c.pacs.toNat < 0x1000)
    (h : c.overlapped .periph = false) :
    c.pcs k io x =
      some (decide (io = !c.mpcs.getLsbD 6 ∧ c.pacs.toNat / 64 * 1024 + 128 * k.val ≤ x ∧
        x ≤ c.pacs.toNat / 64 * 1024 + 128 * k.val + 127)) := by
  have hk' : (decide (5 ≤ k.val) && !c.mpcs.getLsbD 7) = false := by
    obtain h | h := hk
    · rw [decide_eq_false (by omega), Bool.false_and]
    · rw [h, Bool.not_true, Bool.and_false]
  have hspace' : (!c.mpcs.getLsbD 6 && decide (c.pacs.extractLsb' 12 4 ≠ 0)) = false := by
    obtain h | h := hspace
    · rw [h, Bool.not_true, Bool.false_and]
    · have hzero : c.pacs.extractLsb' 12 4 = 0 := by
        refine BitVec.eq_of_toNat_eq ?_
        rw [BitVec.extractLsb'_toNat, Nat.shiftRight_eq_div_pow, Nat.div_eq_of_lt h]
        rfl
      rw [hzero, Bool.and_eq_false_imp]
      exact fun _ => rfl
  have hholds :
      Span.holds { first := periphBase c.pacs + 128 * k.val, past := periphBase c.pacs + 128 * (k.val + 1) } x =
      decide (c.pacs.toNat / 64 * 1024 + 128 * k.val ≤ x ∧ x ≤ c.pacs.toNat / 64 * 1024 + 128 * k.val + 127) := by
    rw [periphBase_eq, Span.holds, ← Bool.decide_and]
    refine decide_eq_decide.2 ?_
    dsimp only
    omega
  rw [ChipSel.pcs, hp, hm, hk', hspace', h, hholds, ← Bool.decide_and]
  rfl

/-! ### Overlap -/

theorem Span.meets_iff {r q : Span} (hr : r.first < r.past) (hq : q.first < q.past) :
    r.meets q = true ↔ ∃ x, r.first ≤ x ∧ x < r.past ∧ q.first ≤ x ∧ x < q.past := by
  rw [Span.meets, Bool.and_eq_true, decide_eq_true_eq, decide_eq_true_eq]
  constructor
  · rintro ⟨hrq, hqr⟩
    exact ⟨max r.first q.first, le_max_left _ _, max_lt hr hqr, le_max_right _ _, max_lt hrq hq⟩
  · rintro ⟨x, hx⟩
    omega

theorem midSize_pos {mpcs : Word} {size : Nat} (h : midSize mpcs = some size) : 0 < size := by
  unfold midSize at h
  split at h <;> simp only [Option.some.injEq, reduceCtorEq] at h <;> omega

/-- No range is empty. -/
theorem span_nonempty {c : ChipSel} {k : SelectRange} {r : Span} (h : c.span k = some r) : r.first < r.past := by
  cases k with
  | upper =>
    have hlt : (c.umcs &&& 0xFFC0#16).toNat ≤ 0xFFC0 := BitVec.toNat_and _ _ ▸ Nat.and_le_right
    obtain ⟨-, h⟩ := Option.ite_none_right_eq_some.1 h
    cases h
    exact lt_of_le_of_lt (Nat.mul_le_mul_right 16 hlt) (show 0xFFC0 * 16 < 0x100000 by decide)
  | lower =>
    obtain ⟨-, h⟩ := Option.ite_none_right_eq_some.1 h
    cases h
    exact Nat.mul_pos (Nat.succ_pos _) (by decide)
  | mid =>
    change c.midSpan = _ at h
    unfold ChipSel.midSpan at h
    split at h
    · cases h
    next size hsize =>
      obtain ⟨-, h⟩ := Option.ite_none_right_eq_some.1 h
      cases h
      exact Nat.lt_add_of_pos_right (midSize_pos hsize)
  | periph =>
    obtain ⟨-, h⟩ := Option.ite_none_right_eq_some.1 h
    cases h
    refine Nat.lt_add_of_pos_right ?_
    split <;> decide

theorem overlapped_iff {c : ChipSel} {k : SelectRange} :
    c.overlapped k = true ↔
      ∃ j r q x, j ≠ k ∧ c.span k = some r ∧ c.span j = some q ∧
        r.first ≤ x ∧ x < r.past ∧ q.first ≤ x ∧ x < q.past := by
  have hmem (j : SelectRange) : j ∈ [SelectRange.upper, .lower, .mid, .periph] := by cases j <;> decide
  have hmeets (j : SelectRange) :
      (match c.span k, c.span j with
        | some r, some q => r.meets q
        | _, _ => false) = true ↔ ∃ r q, c.span k = some r ∧ c.span j = some q ∧ r.meets q = true := by
    cases hk : c.span k <;> cases hj : c.span j <;> simp
  rw [ChipSel.overlapped, List.any_eq_true]
  simp only [hmem, true_and, Bool.and_eq_true, decide_eq_true_eq]
  refine exists_congr fun j => ?_
  constructor
  · rintro ⟨hne, h⟩
    obtain ⟨r, q, hr, hq, h⟩ := (hmeets j).1 h
    obtain ⟨x, hx⟩ := (Span.meets_iff (span_nonempty hr) (span_nonempty hq)).1 h
    exact ⟨r, q, x, hne, hr, hq, hx⟩
  · rintro ⟨r, q, x, hne, hr, hq, hx⟩
    exact ⟨hne, (hmeets j).2 ⟨r, q, hr, hq, (Span.meets_iff (span_nonempty hr) (span_nonempty hq)).2 ⟨x, hx⟩⟩⟩

theorem readyMode_eq (v : Word) : readyMode v = (v.toNat % 4, v.getLsbD 2) := by
  rw [readyMode, BitVec.extractLsb'_toNat, Nat.shiftRight_zero]

/-- Settles O60. -/
theorem chipSelectOutputs : Obligations.ChipSelectOutputs := by
  intro c a
  refine ⟨fun v first hv h hno => ucs_of_span (upperSpan_of_legal hv h) hno a,
    ucs_of_span (upperSpan_of_legal (v := 0xFFF8#16) (by decide) (by decide)) (by decide) a, fun h => ?_,
    fun v last hv h hon hno => lcs_of_span hon (lowerSpan_of_legal hv h hon) hno a, fun k h => ?_,
    fun k m size hm h hmmcs hmpcs => ?_, fun k io x h => ?_,
    fun k io x hp hm hk hspace hno => pcs_of_legal hp hm hk hspace hno, fun hp hm h7 => ?_, fun k => overlapped_iff,
    fun h => ?_, ?_, fun s v hs => ?_⟩
  · rw [ChipSel.lcs, h]
    rfl
  · rw [ChipSel.mcs]
    obtain h | h := h <;> simp [h]
  · intro base hbase hwhole hno
    obtain ⟨hsize, hquarter⟩ := midSize_of_legal hm h
    have hbase' : midBase c.mmcs = base := midBase_eq c.mmcs
    have hspan := midSpan_of_legal hsize hmmcs hmpcs (hbase' ▸ hbase) (fun hs => hbase'.trans (hwhole hs))
    rw [hbase'] at hspan
    exact mcs_of_span hmmcs hmpcs hspan hno hquarter k a
  · rw [ChipSel.pcs]
    obtain h | h := h <;> simp [h, ChipSel.latchedAddress]
  · rw [ChipSel.latchedAddress, ChipSel.latchedAddress, hp, hm, h7]
    exact ⟨rfl, rfl⟩
  · rw [ChipSel.ucs, h, if_pos rfl]
  · intro mode
    refine ⟨readyMode_eq _, readyMode_eq _, fun _ => readyMode_eq _, fun k => (readyMode_eq _).trans ?_⟩
    exact congrArg mode (if_congr Nat.lt_succ_iff.symm rfl rfl)
  · subst hs
    refine ⟨rfl, rfl, rfl, rfl, rfl, rfl, fun _ => rfl, fun _ => rfl, fun _ => rfl, fun _ => rfl, ?_⟩
    simp only [List.forall_mem_cons]
    exact ⟨rfl, rfl, rfl, rfl, fun _ h => absurd h List.not_mem_nil⟩

end Sys2Proof.Proofs
end

section
/-! The decoder undoes the encoder: one rule per shape of an instruction, then a case per instruction. -/

namespace Sys2Proof.Proofs

open Sys2Proof.Machine Sys2Proof.Safety

/-! ### The shapes -/

section
variable {op : Byte} {f : ModRM → List Byte → Decoded} {rm : RM} {rest : List Byte}

/-- What follows the opcode is read as the operand encoded there, with its register field. -/
theorem dSecond_encRM {b : BitVec 3} {X : Decoded} (hwf : rm.wf = true)
    (hf : ∀ m tl, m.reg = b → (∀ k, dRM m tl k = k rm (1 + (encRM b rm).length) rest) → f m tl = X) :
    dSecond (encRM b rm ++ rest) f = X := by
  obtain ⟨c, tl, hcons, hreg, hread⟩ := dRM_encRM b rm hwf rest
  rw [hcons]
  exact hf _ _ hreg hread

theorem dSecond_encMem {b : BitVec 3} {mem : MemRef} {X : Decoded} (hwf : mem.wf = true)
    (hf : ∀ m tl, m.reg = b → (∀ k, dRM m tl k = k (.mem mem) (1 + (encMem b mem).length) rest) → f m tl = X) :
    dSecond (encMem b mem ++ rest) f = X :=
  dSecond_encRM (rm := .mem mem) hwf hf

theorem decode_rmReg {r : Reg} {k : RM → Reg → Instr} (hwf : rm.wf = true)
    (h : ∀ tl, decode (op :: tl) = dRmReg tl k) :
    decode (op :: encRM r.bits rm ++ rest) = .instr (k rm r) (op :: encRM r.bits rm).length := by
  refine (h _).trans (dSecond_encRM hwf fun m tl hreg hread => ?_)
  rw [hread, hreg, Reg.ofBits_bits, List.length_cons, Nat.add_comm]

theorem decode_memReg {r : Reg} {mem : MemRef} {c : Unlisted} {k : MemRef → Reg → Instr} (hwf : mem.wf = true)
    (h : ∀ tl, decode (op :: tl) = dMemReg c tl k) :
    decode (op :: encMem r.bits mem ++ rest) = .instr (k mem r) (op :: encMem r.bits mem).length := by
  refine (h _).trans (dSecond_encMem hwf fun m tl hreg hread => ?_)
  rw [hread, hreg, Reg.ofBits_bits, List.length_cons, Nat.add_comm]

/-- An instruction whose register field selects it of a group. -/
theorem decode_group (f : ModRM → List Byte → Decoded) {b : BitVec 3} {k : RM → Instr} (hwf : rm.wf = true)
    (h : ∀ tl, decode (op :: tl) = dSecond tl f)
    (hf : ∀ mod1 mod0 x tl, f ⟨mod1, mod0, b, x⟩ tl = dG ⟨mod1, mod0, b, x⟩ tl k) :
    decode (op :: encRM b rm ++ rest) = .instr (k rm) (op :: encRM b rm).length := by
  refine (h _).trans (dSecond_encRM hwf ?_)
  rintro ⟨mod1, mod0, _, x⟩ tl rfl hread
  rw [hf, dG, hread, List.length_cons, Nat.add_comm]

theorem decode_groupMem {b : BitVec 3} {mem : MemRef} {k : MemRef → Instr} (hwf : mem.wf = true)
    (h : ∀ tl, decode (op :: tl) = dSecond tl decodeGroupFF)
    (hf : ∀ mod1 mod0 x tl, decodeGroupFF ⟨mod1, mod0, b, x⟩ tl = dGMem ⟨mod1, mod0, b, x⟩ tl k) :
    decode (op :: encMem b mem ++ rest) = .instr (k mem) (op :: encMem b mem).length := by
  refine (h _).trans (dSecond_encMem hwf ?_)
  rintro ⟨mod1, mod0, _, x⟩ tl rfl hread
  rw [hf, dGMem, hread, List.length_cons, Nat.add_comm]

/-- One of a group with an immediate byte after the operand. -/
theorem decode_groupI8 (f : ModRM → List Byte → Decoded) {b : BitVec 3} {k : RM → Byte → Instr} {v : Byte}
    (hwf : rm.wf = true) (h : ∀ tl, decode (op :: tl) = dSecond tl f)
    (hf : ∀ mod1 mod0 x tl, f ⟨mod1, mod0, b, x⟩ tl = dGI8 ⟨mod1, mod0, b, x⟩ tl k) :
    decode (op :: (encRM b rm ++ [v]) ++ rest) = .instr (k rm v) (op :: (encRM b rm ++ [v])).length := by
  rw [List.cons_append, h, List.append_assoc]
  refine dSecond_encRM hwf ?_
  rintro ⟨mod1, mod0, _, x⟩ tl rfl hread
  rw [hf, dGI8, hread, List.length_cons, List.length_append, Nat.add_comm 1]
  rfl

theorem dIW_encImm (k : Imm → Instr) (imm : Imm) (n : Nat) :
    dIW imm.width.bit n (encImm imm ++ rest) k = .instr (k imm) (n + (encImm imm).length) := by
  cases imm with
  | byte v => rfl
  | word v => exact congrArg (fun v => Decoded.instr (k (.word v)) _) (wordOfBytes_low_high v)

/-- One of a group with an immediate of the operand's width after it. -/
theorem decode_groupIW (f : Bool → ModRM → List Byte → Decoded) {b : BitVec 3} {k : RM → Imm → Instr} {imm : Imm}
    (hwf : rm.wf = true) (h : ∀ w tl, decode (opW op w :: tl) = dSecond tl (f w.bit))
    (hf : ∀ w mod1 mod0 x tl, f w ⟨mod1, mod0, b, x⟩ tl = dGIW w ⟨mod1, mod0, b, x⟩ tl k) :
    decode (opW op imm.width :: (encRM b rm ++ encImm imm) ++ rest) =
      .instr (k rm imm) (opW op imm.width :: (encRM b rm ++ encImm imm)).length := by
  rw [List.cons_append, h, List.append_assoc]
  refine dSecond_encRM hwf ?_
  rintro ⟨mod1, mod0, _, x⟩ tl rfl hread
  rw [hf, dGIW, hread, dIW_encImm, List.length_cons, List.length_append, Nat.add_comm 1, Nat.add_right_comm]

theorem decode_imm {k : Imm → Instr} {imm : Imm} (h : ∀ w tl, decode (opW op w :: tl) = dIW w.bit 1 tl k) :
    decode (opW op imm.width :: encImm imm ++ rest) = .instr (k imm) (opW op imm.width :: encImm imm).length := by
  rw [List.cons_append, h, dIW_encImm, List.length_cons, Nat.add_comm]

theorem decode_word {k : Word → Instr} {v : Word} (h : ∀ tl, decode (op :: tl) = dI16 1 tl k) :
    decode (op :: encWord v ++ rest) = .instr (k v) (op :: encWord v).length :=
  (h _).trans (congrArg (fun v => Decoded.instr (k v) 3) (wordOfBytes_low_high v))

theorem decode_pointer {k : Word → Word → Instr} {v w : Word} (h : ∀ tl, decode (op :: tl) = dPtr tl k) :
    decode (op :: (encWord v ++ encWord w) ++ rest) = .instr (k v w) (op :: (encWord v ++ encWord w)).length :=
  (h _).trans (congrArg₂ (fun v w => Decoded.instr (k v w) 5) (wordOfBytes_low_high v) (wordOfBytes_low_high w))

theorem decode_imul16 {r : Reg} {v : Word} (hwf : rm.wf = true) :
    decode (0x69#8 :: (encRM r.bits rm ++ encWord v) ++ rest) =
      .instr (.imulRegRmImm16 r rm v) (0x69#8 :: (encRM r.bits rm ++ encWord v)).length := by
  rw [List.cons_append, List.append_assoc]
  refine dSecond_encRM (f := fun m tl => dRM m tl fun rm n tl => dI16 n tl (.imulRegRmImm16 (Reg.ofBits m.reg) rm))
    hwf fun m tl hreg hread => ?_
  rw [hread, hreg, Reg.ofBits_bits, List.length_cons, List.length_append, Nat.add_comm 1]
  exact congrArg (fun v => Decoded.instr (.imulRegRmImm16 r rm v) _) (wordOfBytes_low_high v)

theorem decode_imul8 {r : Reg} {v : Byte} (hwf : rm.wf = true) :
    decode (0x6B#8 :: (encRM r.bits rm ++ [v]) ++ rest) =
      .instr (.imulRegRmImm8 r rm v) (0x6B#8 :: (encRM r.bits rm ++ [v])).length := by
  rw [List.cons_append, List.append_assoc]
  refine dSecond_encRM (f := fun m tl => dRM m tl fun rm n tl => dI8 n tl (.imulRegRmImm8 (Reg.ofBits m.reg) rm))
    hwf fun m tl hreg hread => ?_
  rw [hread, hreg, Reg.ofBits_bits, List.length_cons, List.length_append, Nat.add_comm 1]
  rfl

theorem decode_enter {size : Word} {level : Byte} :
    decode (0xC8#8 :: (encWord size ++ [level]) ++ rest) = .instr (.enter size level) 4 :=
  congrArg (fun v => Decoded.instr (.enter v level) 4) (wordOfBytes_low_high size)

end

/-- Every field of three bits is the number of a register. -/
theorem exists_bits_eq (b : BitVec 3) : ∃ r : Reg, r.bits = b :=
  ⟨Reg.ofBits b, by revert b; decide⟩

theorem decode_esc {ttt lll : BitVec 3} {rm : RM} {rest : List Byte} (hwf : rm.wf = true) :
    decode (opReg 0xD8#8 ttt :: encRM lll rm ++ rest) =
      .instr (.esc ttt lll rm) (opReg 0xD8#8 ttt :: encRM lll rm).length := by
  refine decode_group (fun m tl => dG m tl (.esc ttt m.reg)) hwf (fun tl => ?_) fun _ _ _ _ => rfl
  obtain ⟨r, rfl⟩ := exists_bits_eq ttt
  cases r <;> rfl

/-- Settles O1. -/
theorem writtenWordsDecode : Obligations.WrittenWordsDecode := by
  unfold Obligations.WrittenWordsDecode
  decide +kernel

/-- Settles O2. -/
theorem decodeEncode : Obligations.DecodeEncode := by
  intro i rest hwf
  cases i with
  | pushEs | pushCs | pushSs | pushDs | pusha | popEs | popSs | popDs | popa | nop | xlat | lahf | sahf | pushf | popf
  | aaa | aas | daa | das | aam | aad | cbw | cwd | retNear | retFar | int3 | into | iret | leave | clc | stc | cmc
  | cld | std | cli | sti | hlt | wait | lock | segEs | segCs | segSs | segDs => rfl
  | pushImm8 _ | jmpShort _ | jo _ | jno _ | jb _ | jnb _ | je _ | jne _ | jbe _ | jnbe _ | js _ | jns _ | jp _ | jnp _
  | jl _ | jnl _ | jle _ | jnle _ | loop _ | loopz _ | loopnz _ | jcxz _ | intType _ => rfl
  | inAccPort w _ | outPortAcc w _ | inAccDx w | outDxAcc w | movs w | cmps w | scas w | lods w | stos w | ins w
  | outs w => cases w <;> rfl
  | rep z => cases z <;> rfl
  | pushReg r | popReg r | incReg r | decReg r | movReg8Imm r _ => cases r <;> rfl
  | xchgAxReg r =>
    cases r with
    | ax_al => exact absurd hwf (by decide)
    | _ => rfl
  | movReg16Imm r _ => exact decode_word fun _ => by cases r <;> rfl
  | movAccMem w _ | movMemAcc w _ => exact decode_word fun _ => by cases w <;> rfl
  | pushImm16 _ | callNear _ | jmpNear _ | retNearImm _ | retFarImm _ => exact decode_word fun _ => rfl
  | callFar _ _ | jmpFar _ _ => exact decode_pointer fun _ => rfl
  | enter _ _ => exact decode_enter
  | addAccImm _ | adcAccImm _ | subAccImm _ | sbbAccImm _ | cmpAccImm _ | andAccImm _ | orAccImm _
  | xorAccImm _ | testAccImm _ => exact decode_imm fun w _ => by cases w <;> rfl
  | movRegRm w _ _ => exact decode_rmReg (k := fun rm r => .movRegRm w r rm) hwf fun _ => by cases w <;> rfl
  | movRmReg w _ _ | xchgRmReg w _ _ | testRmReg w _ _ =>
    exact decode_rmReg hwf fun _ => by cases w <;> rfl
  | addRmReg d w _ _ | adcRmReg d w _ _ | subRmReg d w _ _ | sbbRmReg d w _ _ | cmpRmReg d w _ _ | andRmReg d w _ _
  | orRmReg d w _ _ | xorRmReg d w _ _ => exact decode_rmReg hwf fun _ => by cases d <;> cases w <;> rfl
  | lea _ _ => exact decode_memReg (k := fun x r => .lea r x) hwf fun _ => rfl
  | lds _ _ => exact decode_memReg (k := fun x r => .lds r x) hwf fun _ => rfl
  | les _ _ => exact decode_memReg (k := fun x r => .les r x) hwf fun _ => rfl
  | bound _ _ => exact decode_memReg (k := fun x r => .bound r x) hwf fun _ => rfl
  | movSregRm sreg rm =>
    obtain ⟨hne, hwf⟩ := (Bool.and_eq_true _ _).mp hwf
    refine decode_group decodeMovToSreg hwf (fun _ => rfl) fun _ _ _ _ => ?_
    cases sreg with
    | cs => exact absurd hne (by decide)
    | es | ss | ds => simp only [decodeMovToSreg, SegReg.bits]; rfl
  | movRmSreg _ sreg =>
    refine decode_group (k := fun rm => .movRmSreg rm sreg) decodeMovFromSreg hwf (fun _ => rfl) fun _ _ _ _ => ?_
    cases sreg <;> simp only [decodeMovFromSreg, SegReg.bits] <;> rfl
  | popRm _ =>
    exact decode_group (fun m tl => if m.reg = 0b000#3 then dG m tl .popRm else .unlisted .uf 2) hwf (fun _ => rfl)
      fun _ _ _ _ => rfl
  | movRmImm _ _ =>
    exact decode_groupIW (fun w m tl => if m.reg = 0b000#3 then dGIW w m tl .movRmImm else .unlisted .ug 2) hwf
      (fun w _ => by cases w <;> rfl) fun _ _ _ _ _ => rfl
  | addRmImm _ _ | adcRmImm _ _ | subRmImm _ _ | sbbRmImm _ _ | cmpRmImm _ _ | andRmImm _ _ | orRmImm _ _
  | xorRmImm _ _ =>
    exact decode_groupIW decodeImmGroup hwf (fun w _ => by cases w <;> rfl) fun _ _ _ _ _ => by
      simp only [decodeImmGroup]; rfl
  | testRmImm _ _ =>
    exact decode_groupIW decodeGroupF6 hwf (fun w _ => by cases w <;> rfl) fun _ _ _ _ _ => by
      simp only [decodeGroupF6]; rfl
  | addRm8Imm8 _ _ | adcRm8Imm8 _ _ | subRm8Imm8 _ _ | sbbRm8Imm8 _ _ | cmpRm8Imm8 _ _ =>
    exact decode_groupI8 decodeImm82 hwf (fun _ => rfl) fun _ _ _ _ => by simp only [decodeImm82]; rfl
  | addRm16Imm8 _ _ | adcRm16Imm8 _ _ | subRm16Imm8 _ _ | sbbRm16Imm8 _ _ | cmpRm16Imm8 _ _ =>
    exact decode_groupI8 decodeImm83 hwf (fun _ => rfl) fun _ _ _ _ => by simp only [decodeImm83]; rfl
  | incRm w _ | decRm w _ =>
    cases w with
    | byte => exact decode_group decodeGroupFE hwf (fun _ => rfl) fun _ _ _ _ => by simp only [decodeGroupFE]; rfl
    | word => exact decode_group decodeGroupFF hwf (fun _ => rfl) fun _ _ _ _ => by simp only [decodeGroupFF]; rfl
  | pushRm _ | callNearRm _ | jmpNearRm _ =>
    exact decode_group decodeGroupFF hwf (fun _ => rfl) fun _ _ _ _ => by simp only [decodeGroupFF]; rfl
  | callFarMem _ | jmpFarMem _ =>
    exact decode_groupMem hwf (fun _ => rfl) fun _ _ _ _ => by simp only [decodeGroupFF]; rfl
  | notRm w _ | negRm w _ | mulRm w _ | imulRm w _ | divRm w _ | idivRm w _ =>
    exact decode_group (decodeGroupF6 w.bit) hwf (fun _ => by cases w <;> rfl) fun _ _ _ _ => by
      cases w <;> simp only [decodeGroupF6] <;> rfl
  | rolRm1 w _ | rorRm1 w _ | rclRm1 w _ | rcrRm1 w _ | shlRm1 w _ | shrRm1 w _ | sarRm1 w _ =>
    exact decode_group (decodeShift1 w.bit) hwf (fun _ => by cases w <;> rfl) fun _ _ _ _ => by
      cases w <;> simp only [decodeShift1] <;> rfl
  | rolRmCl w _ | rorRmCl w _ | rclRmCl w _ | rcrRmCl w _ | shlRmCl w _ | shrRmCl w _ | sarRmCl w _ =>
    exact decode_group (decodeShiftCl w.bit) hwf (fun _ => by cases w <;> rfl) fun _ _ _ _ => by
      cases w <;> simp only [decodeShiftCl] <;> rfl
  | rolRmImm w _ _ | rorRmImm w _ _ | rclRmImm w _ _ | rcrRmImm w _ _ | shlRmImm w _ _ | shrRmImm w _ _
  | sarRmImm w _ _ =>
    exact decode_groupI8 (decodeShiftImm w.bit) hwf (fun _ => by cases w <;> rfl) fun _ _ _ _ => by
      cases w <;> simp only [decodeShiftImm] <;> rfl
  | imulRegRmImm16 _ _ _ => exact decode_imul16 hwf
  | imulRegRmImm8 _ _ _ => exact decode_imul8 hwf
  | esc _ _ _ => exact decode_esc hwf

end Sys2Proof.Proofs
end

section
/-! The flags of an addition and of a subtraction against exact arithmetic, and the jumps after a compare. -/

namespace Sys2Proof.Proofs

open Sys2Proof.Machine Sys2Proof.Safety

/-! ### The sum and the difference as numbers -/

theorem bits_eq_or (w : Width) : w.bits = 8 ∨ w.bits = 16 := by cases w <;> decide

theorem toNat_ofBool_setWidth {n : Nat} (hn : 0 < n) (c : Bool) : ((BitVec.ofBool c).setWidth n).toNat = c.toNat := by
  rw [BitVec.toNat_setWidth, BitVec.toNat_ofBool]
  exact Nat.mod_eq_of_lt (c.toNat_lt.trans_le (Nat.le_self_pow hn.ne' 2))

theorem toNat_addResult {n : Nat} (hn : 0 < n) (a b : BitVec n) (c : Bool) :
    (addResult a b c).toNat = (a.toNat + b.toNat + c.toNat) % 2 ^ n := by
  rw [addResult, BitVec.toNat_add, BitVec.toNat_add, toNat_ofBool_setWidth hn, Nat.mod_add_mod]

theorem toNat_subResult {n : Nat} (hn : 0 < n) (a b : BitVec n) (c : Bool) :
    (subResult a b c).toNat = (2 ^ n - c.toNat + (2 ^ n - b.toNat + a.toNat)) % 2 ^ n := by
  rw [subResult, BitVec.toNat_sub, BitVec.toNat_sub, toNat_ofBool_setWidth hn, Nat.add_mod_mod]

/-- The sign bit of a word is set from half its range on. -/
theorem msb_eq_decide_half {n : Nat} (x : BitVec n) : x.msb = decide (2 ^ n ≤ 2 * x.toNat) := by
  rw [BitVec.msb_eq_toInt, BitVec.toInt_eq_toNat_cond, decide_eq_decide]
  have := x.isLt
  split <;> omega

/-- Equal signs and a result of the other one: the signed sum does not fit. -/
theorem add_overflows_iff {n : Nat} (hn : n = 8 ∨ n = 16) (a b : BitVec n) (c : Bool) :
    a.msb = b.msb ∧ (addResult a b c).msb ≠ a.msb ↔
      a.toInt + b.toInt + c.toNat ≠ (addResult a b c).toInt := by
  have ha := a.isLt
  have hb := b.isLt
  have hc := c.toNat_lt
  have hr := toNat_addResult (by omega) a b c
  simp only [msb_eq_decide_half, BitVec.toInt_eq_toNat_cond, ne_eq, decide_eq_decide]
  obtain rfl | rfl := hn <;> omega

theorem sub_overflows_iff {n : Nat} (hn : n = 8 ∨ n = 16) (a b : BitVec n) (c : Bool) :
    a.msb ≠ b.msb ∧ (subResult a b c).msb ≠ a.msb ↔
      a.toInt - b.toInt - c.toNat ≠ (subResult a b c).toInt := by
  have ha := a.isLt
  have hb := b.isLt
  have hc := c.toNat_lt
  have hr := toNat_subResult (by omega) a b c
  simp only [msb_eq_decide_half, BitVec.toInt_eq_toNat_cond, ne_eq, decide_eq_decide]
  obtain rfl | rfl := hn <;> omega

theorem toNat_subResult_emod {n : Nat} (hn : n = 8 ∨ n = 16) (a b : BitVec n) (c : Bool) :
    ((subResult a b c).toNat : Int) = ((a.toNat : Int) - b.toNat - c.toNat) % 2 ^ n := by
  have ha := a.isLt
  have hb := b.isLt
  have hc := c.toNat_lt
  have hr := toNat_subResult (by omega) a b c
  obtain rfl | rfl := hn <;> omega

/-- Settles O23: CF and AF are their definitions; OF is the sign rule. -/
theorem arithmeticFlagsAreExact : Obligations.ArithmeticFlagsAreExact := by
  intro w f a b c
  have hw := bits_eq_or w
  refine ⟨?_, ?_⟩
  · obtain ⟨hzf, hsf, hpf⟩ := szp_describes f (addResult a b c)
    refine ⟨toNat_addResult (by omega) a b c, decide_eq_true_iff, ?_, decide_eq_true_iff, hzf, hsf, hpf, rfl, rfl, rfl⟩
    rw [Flags.add, ← Bool.decide_and, decide_eq_true_iff]
    exact add_overflows_iff hw a b c
  · obtain ⟨hzf, hsf, hpf⟩ := szp_describes f (subResult a b c)
    refine ⟨toNat_subResult_emod hw a b c, decide_eq_true_iff, ?_, decide_eq_true_iff, hzf, hsf, hpf, rfl, rfl, rfl⟩
    rw [Flags.sub, ← Bool.decide_and, decide_eq_true_iff]
    exact sub_overflows_iff hw a b c

/-! ### A compare and the jump after it -/

theorem sub_zf {n : Nat} (f : Flags) (a b : BitVec n) : (f.sub a b false).zf = decide (a = b) := by
  have hsub : subResult a b false = a - b := by simp [subResult]
  exact decide_eq_decide.2 (hsub ▸ BitVec.sub_eq_iff_eq_add.trans (by rw [BitVec.zero_add]))

/-- SF and OF differ exactly when the signed comparison says less. -/
theorem sub_less {n : Nat} (hn : n = 8 ∨ n = 16) (f : Flags) (a b : BitVec n) :
    ((f.sub a b false).sf ^^ (f.sub a b false).ofl) = decide (a.toInt < b.toInt) := by
  have ha := a.isLt
  have hb := b.isLt
  have hr := toNat_subResult (by omega) a b false
  have hsign : ∀ r x y : Bool, (r ^^ (decide (x ≠ y) && decide (r ≠ x))) = if x = y then r else x := by decide
  refine (hsign _ _ _).trans ?_
  split
  case' isTrue hsame => refine (msb_eq_decide_half _).trans (decide_eq_decide.2 ?_)
  case' isFalse hsame => refine (msb_eq_decide_half _).trans (decide_eq_decide.2 ?_)
  all_goals
    rw [Bool.toNat_false] at hr
    simp only [msb_eq_decide_half, decide_eq_decide, BitVec.toInt_eq_toNat_cond] at hsame ⊢
    obtain rfl | rfl := hn <;> omega

/-- Settles O35: the jumps test ZF, CF and SF xor OF, which are the comparisons. -/
theorem jumpsAfterCompareAreComparisons : Obligations.JumpsAfterCompareAreComparisons := by
  intro s w a b d u
  obtain ⟨-, -, hjb, hjnb, hje, hjne, hjbe, hjnbe, -, -, -, -, hjl, hjnl, hjle, hjnle, -⟩ := jumpResults u d
  have hzf : u.flags.zf = decide (a = b) := sub_zf s.flags a b
  have hcf : u.flags.cf = decide (a.toNat < b.toNat) := rfl
  have hless : (u.flags.sf ^^ u.flags.ofl) = decide (a.toInt < b.toInt) := sub_less (bits_eq_or w) s.flags a b
  have hnat : a = b ↔ a.toNat = b.toNat := BitVec.toNat_inj.symm
  have hint : a = b ↔ a.toInt = b.toInt := BitVec.toInt_inj.symm
  rw [hzf] at hje hjne hjbe hjnbe hjle hjnle
  rw [hcf] at hjb hjnb hjbe hjnbe
  rw [hless] at hjl hjnl hjle hjnle
  rw [← decide_not] at hjne hjnb hjnl
  rw [← decide_not, ← decide_not, ← Bool.decide_and] at hjnbe hjnle
  rw [← Bool.decide_or] at hjbe hjle
  refine ⟨hje, hjne, hjb, ?_, ?_, ?_, hjl, ?_, ?_, ?_⟩
  · rw [hjnb, decide_eq_decide.2 Nat.not_lt]
  · rw [hjbe, decide_eq_decide.2 (show _ ↔ a.toNat ≤ b.toNat by rw [hnat]; omega)]
  · rw [hjnbe, decide_eq_decide.2 (show _ ↔ b.toNat < a.toNat by rw [hnat]; omega)]
  · rw [hjnl, decide_eq_decide.2 Int.not_lt]
  · rw [hjle, decide_eq_decide.2 (show _ ↔ a.toInt ≤ b.toInt by rw [hint]; omega)]
  · rw [hjnle, decide_eq_decide.2 (show _ ↔ b.toInt < a.toInt by rw [hint]; omega)]

end Sys2Proof.Proofs
end

section
/-! Multiplication and division: the exact product, quotient and remainder. -/

namespace Sys2Proof.Proofs

open Sys2Proof.Machine Sys2Proof.Safety

/-! ### The product of two words of half the width -/

theorem toNat_mul_setWidth {n m : Nat} (h : m = n + n) (a b : BitVec n) :
    (a.setWidth m * b.setWidth m).toNat = a.toNat * b.toNat := by
  subst h
  have hle : 2 ^ n ≤ 2 ^ (n + n) := Nat.pow_le_pow_right (by decide) (Nat.le_add_left n n)
  rw [BitVec.toNat_mul, BitVec.toNat_setWidth, BitVec.toNat_setWidth, Nat.mod_eq_of_lt (a.isLt.trans_le hle),
    Nat.mod_eq_of_lt (b.isLt.trans_le hle), Nat.mod_eq_of_lt (Nat.pow_add 2 n n ▸ Nat.mul_lt_mul'' a.isLt b.isLt)]

theorem toInt_mul_signExtend {n m : Nat} (hn : n = 8 ∨ n = 16) (h : m = n + n) (a b : BitVec n) :
    (a.signExtend m * b.signExtend m).toInt = a.toInt * b.toInt := by
  have hle : a.toInt * b.toInt ≤ 2 ^ (n * 2 - 2) := BitVec.toInt_mul_toInt_le
  have hge : -2 ^ (n * 2 - 2) ≤ a.toInt * b.toInt := BitVec.le_toInt_mul_toInt
  rw [BitVec.toInt_mul, BitVec.toInt_signExtend_of_le (by omega), BitVec.toInt_signExtend_of_le (by omega)]
  generalize a.toInt * b.toInt = z at hle hge ⊢
  subst h
  obtain rfl | rfl := hn <;> exact Int.bmod_eq_of_le (by omega) (by omega)

/-- The upper half of a product is significant when the product does not fit in the lower one. -/
theorem extractLsb'_high_ne_zero_iff {n : Nat} (p : BitVec (n + n)) :
    p.extractLsb' n n ≠ 0#n ↔ 2 ^ n ≤ p.toNat := by
  have hlt : p.toNat / 2 ^ n < 2 ^ n := Nat.div_lt_of_lt_mul (Nat.pow_add 2 n n ▸ p.isLt)
  rw [ne_eq, ← BitVec.toNat_inj, BitVec.extractLsb'_toNat, Nat.shiftRight_eq_div_pow, Nat.mod_eq_of_lt hlt,
    BitVec.toNat_ofNat, Nat.zero_mod, Nat.div_eq_zero_iff_lt (Nat.two_pow_pos n), Nat.not_lt]

theorem ne_signExtend_low_iff {n : Nat} (hn : n = 8 ∨ n = 16) (p : BitVec (n + n)) :
    p ≠ (p.extractLsb' 0 n).signExtend (n + n) ↔ p.toInt < -2 ^ (n - 1) ∨ 2 ^ (n - 1) ≤ p.toInt := by
  have hp := p.isLt
  rw [ne_eq, ← BitVec.toInt_inj, BitVec.toInt_signExtend_of_le (by omega), BitVec.toInt_extractLsb',
    Nat.shiftRight_zero, BitVec.toInt_eq_toNat_cond, Int.bmod_def]
  obtain rfl | rfl := hn <;> omega

/-- The low half of a word is its value modulo the width. -/
theorem extractLsb'_low_eq_ofInt {n m : Nat} (h : n ≤ m) (p : BitVec m) :
    p.extractLsb' 0 n = BitVec.ofInt n p.toInt := by
  rw [← BitVec.setWidth_eq_extractLsb' h, ← BitVec.signExtend_eq_setWidth_of_le _ h, ← BitVec.toInt_inj,
    BitVec.toInt_signExtend_eq_toInt_bmod_of_le _ h, BitVec.toInt_ofInt]

/-! ### MUL and IMUL -/

theorem multiply_byte (s : State) (v : Byte) :
    let t := multiply .byte v s
    SameButRegsFlags s t ∧ SameControlFlags s t ∧ t.regs = { s.regs with ax := t.regs.ax } ∧
      t.regs.ax.toNat = (s.getReg .byte .ax_al).toNat * v.toNat ∧
      (t.flags.cf = true ↔ 256 ≤ (s.getReg .byte .ax_al).toNat * v.toNat) ∧ t.flags.ofl = t.flags.cf := by
  have hp := toNat_mul_setWidth (n := 8) (m := 16) rfl (s.getReg .byte .ax_al) v
  refine ⟨rfl, ⟨rfl, rfl, rfl⟩, rfl, hp, ?_, rfl⟩
  rw [← hp]
  exact decide_eq_true_iff.trans (extractLsb'_high_ne_zero_iff (n := 8) _)

theorem toNat_halves (p : BitVec 32) : (p.extractLsb' 16 16).toNat * 65536 + (p.extractLsb' 0 16).toNat = p.toNat := by
  have h := toNat_append_eq (p.extractLsb' 16 16) (p.extractLsb' 0 16)
  rw [BitVec.extractLsb'_append_extractLsb' (w := 16) (len := 16)] at h
  exact h.symm

theorem multiply_word (s : State) (v : Word) :
    let t := multiply .word v s
    SameButRegsFlags s t ∧ SameControlFlags s t ∧ t.regs = { s.regs with ax := t.regs.ax, dx := t.regs.dx } ∧
      t.regs.dx.toNat * 65536 + t.regs.ax.toNat = s.regs.ax.toNat * v.toNat ∧
      (t.flags.cf = true ↔ 65536 ≤ s.regs.ax.toNat * v.toNat) ∧ t.flags.ofl = t.flags.cf := by
  have hp := toNat_mul_setWidth (n := 16) (m := 32) rfl s.regs.ax v
  refine ⟨rfl, ⟨rfl, rfl, rfl⟩, rfl, ?_, ?_, rfl⟩
  · rw [← hp]
    exact toNat_halves _
  · rw [← hp]
    exact decide_eq_true_iff.trans (extractLsb'_high_ne_zero_iff (n := 16) _)

theorem multiplySigned_byte (s : State) (v : Byte) :
    let t := multiplySigned .byte v s
    let p := (s.getReg .byte .ax_al).toInt * v.toInt
    SameButRegsFlags s t ∧ SameControlFlags s t ∧ t.regs = { s.regs with ax := t.regs.ax } ∧
      t.regs.ax.toInt = p ∧ (t.flags.cf = true ↔ p < -128 ∨ 128 ≤ p) ∧ t.flags.ofl = t.flags.cf := by
  have hp := toInt_mul_signExtend (n := 8) (m := 16) (.inl rfl) rfl (s.getReg .byte .ax_al) v
  refine ⟨rfl, ⟨rfl, rfl, rfl⟩, rfl, hp, ?_, rfl⟩
  rw [← hp]
  exact decide_eq_true_iff.trans (ne_signExtend_low_iff (.inl rfl) _)

theorem multiplySigned_word (s : State) (v : Word) :
    let t := multiplySigned .word v s
    let p := s.regs.ax.toInt * v.toInt
    SameButRegsFlags s t ∧ SameControlFlags s t ∧ t.regs = { s.regs with ax := t.regs.ax, dx := t.regs.dx } ∧
      (t.regs.dx ++ t.regs.ax).toInt = p ∧ (t.flags.cf = true ↔ p < -32768 ∨ 32768 ≤ p) ∧
      t.flags.ofl = t.flags.cf := by
  have hp := toInt_mul_signExtend (n := 16) (m := 32) (.inr rfl) rfl s.regs.ax v
  refine ⟨rfl, ⟨rfl, rfl, rfl⟩, rfl, ?_, ?_, rfl⟩
  · rw [← hp]
    exact congrArg BitVec.toInt (BitVec.extractLsb'_append_extractLsb' (w := 16) (len := 16))
  · rw [← hp]
    exact decide_eq_true_iff.trans (ne_signExtend_low_iff (.inr rfl) _)

theorem multiplyImm_plain {s : State} (hu : s.undisturbed = true) {rm : RM}
    (h : plainLoc s .word (s.locate rm) = true) (reg : Reg) (imm : Word) :
    let p := (valueOf s .word (s.locate rm)).toInt * imm.toInt
    ∃ t, multiplyImm reg rm imm s = .next t ∧ SameButRegsFlags s t ∧ SameControlFlags s t ∧
      t.regs = s.regs.set16 reg (BitVec.ofInt 16 p) ∧ (t.flags.cf = true ↔ p < -32768 ∨ 32768 ≤ p) ∧
      t.flags.ofl = t.flags.cf := by
  intro p
  have hp := toInt_mul_signExtend (n := 16) (m := 32) (.inr rfl) rfl (valueOf s .word (s.locate rm)) imm
  refine ⟨_, seq_readRM_plain hu h _, rfl, ⟨rfl, rfl, rfl⟩, ?_, ?_, rfl⟩
  · exact congrArg (s.regs.set16 reg) ((extractLsb'_low_eq_ofInt (by decide) _).trans (congrArg _ hp))
  · refine (decide_eq_true_iff.trans (ne_signExtend_low_iff (.inr rfl) _)).trans ?_
    rw [hp]
    rfl

/-- Settles O25. -/
theorem multiplyResults : Obligations.MultiplyResults := by
  intro s hu
  refine ⟨fun rm h =>
      ⟨⟨_, seq_readRM_plain hu h _, multiply_byte s _⟩, ⟨_, seq_readRM_plain hu h _, multiplySigned_byte s _⟩⟩,
    fun rm h => ⟨⟨_, seq_readRM_plain hu h _, multiply_word s _⟩, ⟨_, seq_readRM_plain hu h _, multiplySigned_word s _⟩,
      fun reg imm => multiplyImm_plain hu h reg imm, fun reg imm => ?_⟩⟩
  rw [← BitVec.toInt_signExtend_of_le (x := imm) (show 8 ≤ 16 by decide)]
  exact multiplyImm_plain hu h reg (imm.signExtend 16)

/-! ### DIV and IDIV -/

theorem divide_fits {s : State} {w : Width} {v : BitVec w.bits} (hv : v.toNat ≠ 0)
    (h : s.dividend w / v.toNat < 2 ^ w.bits) :
    divide w v s = .next (s.setQuotient w (BitVec.ofNat w.bits (s.dividend w / v.toNat))
      (BitVec.ofNat w.bits (s.dividend w % v.toNat))).divFlags := by
  rw [divide, if_neg (not_or.2 ⟨hv, Nat.not_le.2 h⟩)]

theorem divideSigned_fits {s : State} {w : Width} {v : BitVec w.bits} (hv : v.toInt ≠ 0)
    (hge : -2 ^ (w.bits - 1) ≤ (s.dividendSigned w).tdiv v.toInt)
    (hlt : (s.dividendSigned w).tdiv v.toInt < 2 ^ (w.bits - 1)) :
    divideSigned w v s = .next (s.setQuotient w (BitVec.ofInt w.bits ((s.dividendSigned w).tdiv v.toInt))
      (BitVec.ofInt w.bits ((s.dividendSigned w).tmod v.toInt))).divFlags := by
  rw [divideSigned, if_neg (not_or.2 ⟨hv, not_or.2 ⟨Int.not_lt.2 hge, Int.not_le.2 hlt⟩⟩)]

theorem toNat_ofNat_mod {n : Nat} (x : Nat) {v : BitVec n} (hv : v.toNat ≠ 0) :
    (BitVec.ofNat n (x % v.toNat)).toNat = x % v.toNat := by
  rw [BitVec.toNat_ofNat, Nat.mod_eq_of_lt ((Nat.mod_lt _ (Nat.pos_of_ne_zero hv)).trans v.isLt)]

/-- A remainder is smaller than the divisor, so it fits. -/
theorem toInt_ofInt_tmod {n : Nat} (hn : 0 < n) (x : Int) {v : BitVec n} (hv : v.toInt ≠ 0) :
    (BitVec.ofInt n (x.tmod v.toInt)).toInt = x.tmod v.toInt := by
  have hlt : (x.tmod v.toInt).natAbs < v.toInt.natAbs := by
    rw [Int.natAbs_tmod]
    exact Nat.mod_lt _ (Int.natAbs_pos.2 hv)
  have hle := BitVec.le_toInt v
  have hge := BitVec.toInt_lt (x := v)
  exact BitVec.toInt_ofInt_eq_self hn (by omega) (by omega)

/-- Settles O26. -/
theorem divideResults : Obligations.DivideResults := by
  intro s hu
  refine ⟨fun rm h => ⟨fun hv hq => ?_, fun hv hge hlt => ?_⟩, fun rm h => ⟨fun hv hq => ?_, fun hv hge hlt => ?_⟩⟩
  · refine ⟨_, (seq_readRM_plain hu h _).trans (divide_fits hv hq), rfl, ⟨rfl, rfl, rfl⟩, rfl, ?_, ?_⟩
    · exact (congrArg _ BitVec.extractLsb'_append_eq_right).trans (Nat.mod_eq_of_lt hq)
    · exact (congrArg _ BitVec.extractLsb'_append_eq_left).trans (toNat_ofNat_mod _ hv)
  · refine ⟨_, (seq_readRM_plain hu h _).trans (divideSigned_fits hv hge hlt), rfl, ⟨rfl, rfl, rfl⟩, rfl, ?_, ?_⟩
    · exact (congrArg _ BitVec.extractLsb'_append_eq_right).trans (BitVec.toInt_ofInt_eq_self (by decide) hge hlt)
    · exact (congrArg _ BitVec.extractLsb'_append_eq_left).trans (toInt_ofInt_tmod (by decide) _ hv)
  · exact ⟨_, (seq_readRM_plain hu h _).trans (divide_fits hv hq), rfl, ⟨rfl, rfl, rfl⟩, rfl, Nat.mod_eq_of_lt hq,
      toNat_ofNat_mod _ hv⟩
  · exact ⟨_, (seq_readRM_plain hu h _).trans (divideSigned_fits hv hge hlt), rfl, ⟨rfl, rfl, rfl⟩, rfl,
      BitVec.toInt_ofInt_eq_self (by decide) hge hlt, toInt_ofInt_tmod (by decide) _ hv⟩

end Sys2Proof.Proofs
end

section
/-! The ASCII and decimal adjusts and the sign extensions, as arithmetic on numbers. -/

namespace Sys2Proof.Proofs

open Sys2Proof.Machine Sys2Proof.Safety

/-! ### AAA, AAS, AAM, AAD, CBW and CWD -/

theorem toNat_and_low_nibble (x : Byte) : (x &&& 0x0F#8).toNat = x.toNat % 16 :=
  BitVec.toNat_and x 0x0F#8 ▸ Nat.and_two_pow_sub_one_eq_mod x.toNat 4

/-- A word made of two bytes, as a number. -/
theorem append_eq_ofNat {x y : Byte} {n : Nat} (h : x.toNat * 256 + y.toNat = n % 65536) :
    (x ++ y : Word) = BitVec.ofNat 16 n :=
  BitVec.eq_of_toNat_eq ((toNat_append_eq x y).trans (h.trans (BitVec.toNat_ofNat n 16).symm))

theorem aaa_word (al ah : Byte) (a : Bool) :
    (if a then (ah + 1) ++ ((al + 6) &&& 0x0F#8) else ah ++ (al &&& 0x0F#8) : Word) =
      BitVec.ofNat 16 (if a then (ah.toNat + 1) % 256 * 256 + (al.toNat + 6) % 16
        else ah.toNat * 256 + al.toNat % 16) := by
  have hah := ah.isLt
  cases a with
  | false =>
    refine append_eq_ofNat ?_
    rw [toNat_and_low_nibble, if_neg Bool.false_ne_true]
    omega
  | true =>
    refine append_eq_ofNat ?_
    rw [toNat_and_low_nibble, if_pos rfl, BitVec.toNat_add, BitVec.toNat_add]
    show (ah.toNat + 1) % 256 * 256 + (al.toNat + 6) % 256 % 16 = _
    omega

theorem aas_word (al ah : Byte) (a : Bool) :
    (if a then (ah - 1) ++ ((al - 6) &&& 0x0F#8) else ah ++ (al &&& 0x0F#8) : Word) =
      BitVec.ofNat 16 (if a then (ah.toNat + 255) % 256 * 256 + (al.toNat + 10) % 16
        else ah.toNat * 256 + al.toNat % 16) := by
  have hah := ah.isLt
  cases a with
  | false =>
    refine append_eq_ofNat ?_
    rw [toNat_and_low_nibble, if_neg Bool.false_ne_true]
    omega
  | true =>
    refine append_eq_ofNat ?_
    rw [toNat_and_low_nibble, if_pos rfl, BitVec.toNat_sub, BitVec.toNat_sub]
    show (256 - 1 + ah.toNat) % 256 * 256 + (256 - 6 + al.toNat) % 256 % 16 = _
    omega

/-- ZF, SF and PF of a byte given as a number. -/
theorem szp_ofNat (f : Flags) (n : Nat) :
    ((f.szp (BitVec.ofNat 8 n)).zf = true ↔ n % 256 = 0) ∧ ((f.szp (BitVec.ofNat 8 n)).sf = true ↔ 128 ≤ n % 256) ∧
      ((f.szp (BitVec.ofNat 8 n)).pf = true ↔ evenParity (BitVec.ofNat 8 n)) := by
  obtain ⟨hzf, hsf, hpf⟩ := szp_describes f (BitVec.ofNat 8 n)
  refine ⟨hzf.trans ?_, hsf.trans ?_, hpf⟩
  · rw [← BitVec.toNat_inj, BitVec.toNat_ofNat]
    rfl
  · rw [BitVec.toInt_eq_toNat_cond, BitVec.toNat_ofNat]
    omega

theorem exec_aam (s : State) :
    let al := (s.getReg .byte .ax_al).toNat
    exec .aam s = .next ((s.setReg .word .ax_al (BitVec.ofNat 16 (al / 10 * 256 + al % 10))).asciiMulFlags
      (BitVec.ofNat 8 (al % 10))) := by
  intro al
  have hrem : s.getReg .byte .ax_al % 10#8 = BitVec.ofNat 8 (al % 10) :=
    BitVec.eq_of_toNat_eq (by
      rw [BitVec.toNat_umod, BitVec.toNat_ofNat (al % 10)]
      show al % 10 = al % 10 % 256
      omega)
  have hword : (s.getReg .byte .ax_al / 10#8 ++ s.getReg .byte .ax_al % 10#8 : Word) =
      BitVec.ofNat 16 (al / 10 * 256 + al % 10) := by
    have hal : al < 256 := (s.getReg .byte .ax_al).isLt
    refine append_eq_ofNat ?_
    rw [BitVec.toNat_udiv, BitVec.toNat_umod]
    show al / 10 * 256 + al % 10 = _
    omega
  show execAam s = _
  rw [execAam, hword, hrem]

theorem zero_append_ofNat (n : Nat) : (0#8 ++ BitVec.ofNat 8 n : Word) = BitVec.ofNat 16 (n % 256) := by
  refine append_eq_ofNat ?_
  rw [BitVec.toNat_ofNat n]
  show 0 * 256 + n % 256 = n % 256 % 65536
  omega

theorem exec_aad (s : State) :
    let n := (s.getReg .byte .sp_ah).toNat * 10 + (s.getReg .byte .ax_al).toNat
    exec .aad s = .next ((s.setReg .word .ax_al (BitVec.ofNat 16 (n % 256))).asciiMulFlags (BitVec.ofNat 8 n)) := by
  intro n
  have hlow : s.getReg .byte .sp_ah * 10#8 + s.getReg .byte .ax_al = BitVec.ofNat 8 n := by
    refine BitVec.eq_of_toNat_eq ?_
    rw [BitVec.toNat_add, BitVec.toNat_mul, BitVec.toNat_ofNat, Nat.mod_add_mod]
    rfl
  show execAad s = _
  rw [execAad, hlow, zero_append_ofNat]

/-- DX filled with the sign of AX extends it. -/
theorem toInt_signFill_append (x : Word) :
    ((if x.msb then 0xFFFF#16 else 0x0000#16) ++ x).toInt = x.toInt := by
  have hx := x.isLt
  rw [BitVec.toInt_eq_toNat_cond, BitVec.toInt_eq_toNat_cond, toNat_append_eq, msb_eq_decide_half]
  by_cases h : 2 ^ 16 ≤ 2 * x.toNat
  · have hfill : (0xFFFF#16).toNat = 65535 := rfl
    rw [decide_eq_true h, if_pos rfl, hfill, if_neg (by omega), if_neg (by omega)]
    omega
  · have hfill : (0x0000#16).toNat = 0 := rfl
    rw [decide_eq_false h, if_neg Bool.false_ne_true, hfill, if_pos (by omega), if_pos (by omega)]
    omega

/-- Settles O28. -/
theorem asciiAdjustsAndExtensions : Obligations.AsciiAdjustsAndExtensions := by
  intro s al ah adjust
  refine ⟨⟨_, rfl, rfl, ⟨rfl, rfl, rfl⟩, ?_, rfl, rfl⟩, ⟨_, rfl, rfl, ⟨rfl, rfl, rfl⟩, ?_, rfl, rfl⟩,
    ⟨_, exec_aam s, rfl, ⟨rfl, rfl, rfl⟩, rfl, ?_⟩, ⟨_, exec_aad s, rfl, ⟨rfl, rfl, rfl⟩, rfl, ?_⟩,
    ⟨_, rfl, rfl, BitVec.toInt_signExtend_of_le (by decide)⟩, ⟨_, rfl, rfl, toInt_signFill_append _⟩⟩
  · exact congrArg (fun ax => ({ s.regs with ax := ax } : Regs)) (aaa_word _ _ _)
  · exact congrArg (fun ax => ({ s.regs with ax := ax } : Regs)) (aas_word _ _ _)
  · obtain ⟨hzf, hsf, hpf⟩ := szp_ofNat s.flags (al % 10)
    refine ⟨hzf.trans (by omega), Bool.eq_false_iff.2 fun h => ?_, hpf⟩
    have := hsf.1 h
    omega
  · exact szp_ofNat s.flags (ah * 10 + al)

/-! ### DAA and DAS -/

theorem toNat_packed (n : Nat) : (packed n).toNat = 16 * (n / 10 % 10) + n % 10 := by
  rw [packed, BitVec.toNat_ofNat]
  omega

theorem daa_byte (al : Byte) (lo hi : Bool) :
    (if lo then al + 6 else al) + (if hi then 0x60#8 else 0#8) =
      al + (if lo then 6 else 0) + (if hi then 0x60 else 0) := by
  cases lo with
  | false => exact congrArg (· + _) (BitVec.add_zero al).symm
  | true => rfl

theorem das_byte (al : Byte) (lo hi : Bool) :
    (if lo then al - 6 else al) - (if hi then 0x60#8 else 0#8) =
      al - (if lo then 6 else 0) - (if hi then 0x60 else 0) := by
  cases lo with
  | false => exact congrArg (· - _) (BitVec.sub_zero al).symm
  | true => rfl

theorem toNat_packed_digits {a b : Nat} (ha : a < 10) (hb : b < 10) : (packed (10 * a + b)).toNat = 16 * a + b := by
  rw [toNat_packed]
  omega

theorem exists_digits {n : Nat} (h : n < 100) : ∃ a b, a < 10 ∧ b < 10 ∧ n = 10 * a + b :=
  ⟨n / 10, n % 10, by omega, by omega, by omega⟩

/-! A packed sum is its binary sum plus 6 for each carry out of a digit. Below, `S` is the binary sum, `D` the binary
difference modulo 256, `k` and `h` the carries or borrows of the two digits, `e` and `f` the digits of the result. -/

theorem carry_low_iff {b d k f m S : Nat} (hb : b < 10) (hd : d < 10) (hf : f < 10) (hlow : b + d = 10 * k + f)
    (hS : S = 16 * m + (b + d)) : 9 < S % 256 % 16 ∨ 16 ≤ b + d ↔ k = 1 := by
  have hnibble : S % 256 % 16 = (b + d) % 16 := by omega
  omega

theorem carry_high_iff {k h e f S : Nat} (hk : k < 2) (hh : h < 2) (he : e < 10) (hf : f < 10)
    (hS : S + 6 * k = 160 * h + 16 * e + f) : 0x99 < S % 256 ∨ 256 ≤ S ↔ h = 1 := by
  omega

theorem borrow_low_iff {b d k f m D : Nat} (hb : b < 10) (hd : d < 10) (hf : f < 10) (hlow : b + 10 * k = d + f)
    (hD : D + d = 16 * m + b) : 9 < D % 256 % 16 ∨ b < d ↔ k = 1 := by
  have hnibble : D % 256 % 16 = (16 + b - d) % 16 := by omega
  omega

theorem borrow_high_iff {p q k h e f : Nat} (hq : q < 160) (hk : k < 2) (hh : h < 2) (he : e + k < 10 + h)
    (he' : e < 10)
    (hf : f < 10) (hpq : p + 160 * h = q + 16 * e + f + 6 * k) : 0x99 < (256 - q + p) % 256 ∨ p < q ↔ h = 1 := by
  interval_cases k <;> interval_cases h <;> omega

/-- The adjustments for the carries make the binary sum the packed one. -/
theorem adjusted_add {k h S r : Nat} (hk : k < 2) (hh : h < 2) (hr : r < 256) (hS : S + 6 * k + 96 * h = 256 * h + r) :
    ((S % 256 + if k = 1 then 6 else 0) % 256 + if h = 1 then 96 else 0) % 256 = r := by
  interval_cases k <;> interval_cases h <;> simp only [zero_ne_one, if_true, if_false] <;> omega

theorem adjusted_sub {k h D r : Nat} (hk : k < 2) (hh : h < 2) (hr : r < 256)
    (hD : D = 256 * (1 - h) + 6 * k + 96 * h + r) :
    (256 - (if h = 1 then 96 else 0) + (256 - (if k = 1 then 6 else 0) + D % 256) % 256) % 256 = r := by
  interval_cases k <;> interval_cases h <;> simp only [zero_ne_one, if_true, if_false] <;> omega

/-- After a packed addition the conditions of the adjust are the decimal carries, and it gives the decimal sum. -/
theorem daa_decimal {x y : Nat} (hx : x < 100) (hy : y < 100) (g : Flags) :
    let al := packed x + packed y
    let lo := decide (9 < al.toNat % 16) || (g.add (packed x) (packed y) false).af
    let hi := decide (0x99 < al.toNat) || (g.add (packed x) (packed y) false).cf
    al + (if lo then 6 else 0) + (if hi then 0x60 else 0) = packed ((x + y) % 100) ∧ hi = decide (100 ≤ x + y) := by
  intro al lo hi
  obtain ⟨a, b, ha, hb, rfl⟩ := exists_digits hx
  obtain ⟨c, d, hc, hd, rfl⟩ := exists_digits hy
  have hb16 : b < 16 := hb.trans (by decide)
  have hd16 : d < 16 := hd.trans (by decide)
  have hp := toNat_packed_digits ha hb
  have hq := toNat_packed_digits hc hd
  obtain ⟨k, f, hk, hf, hlow⟩ : ∃ k f, k < 2 ∧ f < 10 ∧ b + d = 10 * k + f :=
    ⟨(b + d) / 10, (b + d) % 10, by omega, by omega, by omega⟩
  obtain ⟨h, e, hh, he, hhigh⟩ : ∃ h e, h < 2 ∧ e < 10 ∧ a + c + k = 10 * h + e :=
    ⟨(a + c + k) / 10, (a + c + k) % 10, by omega, by omega, by omega⟩
  have hsum : (10 * a + b + (10 * c + d)) % 100 = 10 * e + f := by omega
  have hal : al.toNat = (16 * a + b + (16 * c + d)) % 256 := by rw [BitVec.toNat_add, hp, hq]
  have hlo : lo = decide (k = 1) := by
    refine (Bool.decide_or _ _).symm.trans (decide_eq_decide.2 ?_)
    rw [hal, hp, hq, Bool.toNat_false, Nat.add_zero, Nat.mul_add_mod, Nat.mul_add_mod, Nat.mod_eq_of_lt hb16,
      Nat.mod_eq_of_lt hd16]
    exact carry_low_iff (m := a + c) (S := 16 * a + b + (16 * c + d)) hb hd hf hlow (by omega)
  have hhi : hi = decide (h = 1) := by
    refine (Bool.decide_or _ _).symm.trans (decide_eq_decide.2 ?_)
    rw [hal, hp, hq, Bool.toNat_false, Nat.add_zero]
    exact carry_high_iff (S := 16 * a + b + (16 * c + d)) hk hh he hf (by omega)
  refine ⟨BitVec.eq_of_toNat_eq ?_, hhi.trans (decide_eq_decide.2 (by omega))⟩
  rw [hsum, toNat_packed_digits he hf, hlo, hhi, BitVec.toNat_add, BitVec.toNat_add, hal, apply_ite BitVec.toNat,
    apply_ite BitVec.toNat]
  simp only [decide_eq_true_eq]
  exact adjusted_add (S := 16 * a + b + (16 * c + d)) (r := 16 * e + f) hk hh (by omega) (by omega)

/-- After a packed subtraction likewise, with the decimal borrows. -/
theorem das_decimal {x y : Nat} (hx : x < 100) (hy : y < 100) (g : Flags) :
    let al := packed x - packed y
    let lo := decide (9 < al.toNat % 16) || (g.sub (packed x) (packed y) false).af
    let hi := decide (0x99 < al.toNat) || (g.sub (packed x) (packed y) false).cf
    al - (if lo then 6 else 0) - (if hi then 0x60 else 0) = packed ((x + 100 - y) % 100) ∧ hi = decide (x < y) := by
  intro al lo hi
  obtain ⟨a, b, ha, hb, rfl⟩ := exists_digits hx
  obtain ⟨c, d, hc, hd, rfl⟩ := exists_digits hy
  have hb16 : b < 16 := hb.trans (by decide)
  have hd16 : d < 16 := hd.trans (by decide)
  have hp := toNat_packed_digits ha hb
  have hq := toNat_packed_digits hc hd
  obtain ⟨k, f, hk, hf, hlow⟩ : ∃ k f, k < 2 ∧ f < 10 ∧ b + 10 * k = d + f :=
    ⟨(9 + d - b) / 10, (10 + b - d) % 10, by omega, by omega, by omega⟩
  obtain ⟨h, e, hh, he, hhigh⟩ : ∃ h e, h < 2 ∧ e < 10 ∧ a + 10 * h = c + k + e :=
    ⟨(9 + c + k - a) / 10, (20 + a - c - k) % 10, by omega, by omega, by omega⟩
  have hdiff : (10 * a + b + 100 - (10 * c + d)) % 100 = 10 * e + f := by omega
  have hal : al.toNat = (256 - (16 * c + d) + (16 * a + b)) % 256 := by rw [BitVec.toNat_sub, hp, hq]
  have hlo : lo = decide (k = 1) := by
    refine (Bool.decide_or _ _).symm.trans (decide_eq_decide.2 ?_)
    rw [hal, hp, hq, Bool.toNat_false, Nat.add_zero, Nat.mul_add_mod, Nat.mul_add_mod, Nat.mod_eq_of_lt hb16,
      Nat.mod_eq_of_lt hd16]
    exact borrow_low_iff (m := 16 + a - c) (D := 256 - (16 * c + d) + (16 * a + b)) hb hd hf hlow (by omega)
  have hhi : hi = decide (h = 1) := by
    refine (Bool.decide_or _ _).symm.trans (decide_eq_decide.2 ?_)
    rw [hal, hp, hq, Bool.toNat_false, Nat.add_zero]
    exact borrow_high_iff (p := 16 * a + b) (q := 16 * c + d) (by omega) hk hh (by omega) he hf (by omega)
  refine ⟨BitVec.eq_of_toNat_eq ?_, hhi.trans (decide_eq_decide.2 (by omega))⟩
  rw [hdiff, toNat_packed_digits he hf, hlo, hhi, BitVec.toNat_sub, BitVec.toNat_sub, hal, apply_ite BitVec.toNat,
    apply_ite BitVec.toNat]
  simp only [decide_eq_true_eq]
  exact adjusted_sub (D := 256 - (16 * c + d) + (16 * a + b)) (r := 16 * e + f) hk hh (by omega) (by omega)

/-- The adjusted byte goes to AL, and ZF, SF and PF describe it there. -/
theorem decimalFlags_describes (s : State) (lo hi : Bool) (v : Byte) :
    let t := (s.setReg .byte .ax_al v).decimalFlags lo hi v
    t.getReg .byte .ax_al = v ∧ (t.flags.zf = true ↔ t.getReg .byte .ax_al = 0#8) ∧
      (t.flags.sf = true ↔ (t.getReg .byte .ax_al).toInt < 0) ∧
      (t.flags.pf = true ↔ evenParity (t.getReg .byte .ax_al)) := by
  intro t
  have hget : t.getReg .byte .ax_al = v := Regs.get8_set8 s.regs .ax_al v
  rw [hget]
  exact ⟨rfl, szp_describes s.flags v⟩

theorem exec_daa (s : State) (lo hi : Bool) (hlo : lowAdjust (s.getReg .byte .ax_al) s.flags.af = lo)
    (hhi : highAdjust (s.getReg .byte .ax_al) s.flags.cf = hi) :
    let v : Byte := s.getReg .byte .ax_al + (if lo then 6 else 0) + (if hi then 0x60 else 0)
    exec .daa s = .next ((s.setReg .byte .ax_al v).decimalFlags lo hi v) := by
  subst hlo hhi
  show execDaa s = _
  rw [execDaa, daa_byte]

theorem exec_das (s : State) (lo hi : Bool) (hlo : lowAdjust (s.getReg .byte .ax_al) s.flags.af = lo)
    (hhi : highAdjust (s.getReg .byte .ax_al) s.flags.cf = hi) :
    let v : Byte := s.getReg .byte .ax_al - (if lo then 6 else 0) - (if hi then 0x60 else 0)
    exec .das s = .next ((s.setReg .byte .ax_al v).decimalFlags lo hi v) := by
  subst hlo hhi
  show execDas s = _
  rw [execDas, das_byte]

/-- Settles O29: the adjusted byte by its form, and the decimal claim by the packed sum and difference. -/
theorem decimalAdjustsAreDecimal : Obligations.DecimalAdjustsAreDecimal := by
  intro s al lo hi
  constructor
  · obtain ⟨hget, hzf, hsf, hpf⟩ :=
        decimalFlags_describes s lo hi (al + (if lo then 6 else 0) + (if hi then 0x60 else 0))
    refine ⟨_, exec_daa s lo hi rfl rfl, rfl, ⟨rfl, rfl, rfl⟩, rfl, rfl, rfl, hzf, hsf, hpf,
      fun x y hx hy hal hcf haf => ?_⟩
    have hdecimal := daa_decimal hx hy s.flags
    rw [← haf, ← hcf, ← hal] at hdecimal
    exact ⟨hget.trans hdecimal.1, hdecimal.2⟩
  · obtain ⟨hget, hzf, hsf, hpf⟩ :=
        decimalFlags_describes s lo hi (al - (if lo then 6 else 0) - (if hi then 0x60 else 0))
    refine ⟨_, exec_das s lo hi rfl rfl, rfl, ⟨rfl, rfl, rfl⟩, rfl, rfl, rfl, hzf, hsf, hpf,
      fun x y hx hy hal hcf haf => ?_⟩
    have hdecimal := das_decimal hx hy s.flags
    rw [← haf, ← hcf, ← hal] at hdecimal
    exact ⟨hget.trans hdecimal.1, hdecimal.2⟩

end Sys2Proof.Proofs
end

section
/-! The shifts and rotates: one step is a shift or a rotation by one place, so `n` steps are those by `n`. -/

namespace Sys2Proof.Proofs

open Sys2Proof.Machine Sys2Proof.Safety

/-! ### One step -/

theorem getLsbD_shiftInLow {n : Nat} (x : BitVec n) (b : Bool) {i : Nat} (hi : i < n) :
    (shiftInLow x b).getLsbD i = if i = 0 then b else x.getLsbD (i - 1) := by
  rw [shiftInLow, BitVec.getLsbD_or, BitVec.getLsbD_shiftLeft, BitVec.getLsbD_setWidth, BitVec.getLsbD_ofBool]
  by_cases h : i = 0
  · simp [h, show 0 < n by omega]
  · simp [h, hi]

theorem getLsbD_shiftInHigh {n : Nat} (x : BitVec n) (b : Bool) {i : Nat} (hi : i < n) :
    (shiftInHigh x b).getLsbD i = if i + 1 = n then b else x.getLsbD (i + 1) := by
  rw [shiftInHigh, BitVec.getLsbD_or, BitVec.getLsbD_ushiftRight, BitVec.getLsbD_shiftLeft, BitVec.getLsbD_setWidth,
    BitVec.getLsbD_ofBool, Nat.add_comm 1 i]
  by_cases h : i + 1 = n
  · simp [h, hi, show i - (n - 1) = 0 by omega, show ¬ i < n - 1 by omega]
    omega
  · simp [h, show i < n - 1 by omega]

theorem rotateLeft_one {n : Nat} (hn : 1 < n) (x : BitVec n) : x.rotateLeft 1 = shiftInLow x x.msb := by
  refine BitVec.eq_of_getLsbD_eq fun i hi => ?_
  rw [getLsbD_shiftInLow _ _ hi, BitVec.getLsbD_rotateLeft, Nat.mod_eq_of_lt hn, BitVec.msb_eq_getLsbD_last]
  by_cases h : i = 0
  · simp [h]
  · simp [h, hi, show ¬ i < 1 by omega]

theorem rotateRight_one {n : Nat} (hn : 1 < n) (x : BitVec n) : x.rotateRight 1 = shiftInHigh x (x.getLsbD 0) := by
  refine BitVec.eq_of_getLsbD_eq fun i hi => ?_
  rw [getLsbD_shiftInHigh _ _ hi, BitVec.getLsbD_rotateRight, Nat.mod_eq_of_lt hn]
  by_cases h : i + 1 = n
  · simp [h, hi, show ¬ i < n - 1 by omega, show i - (n - 1) = 0 by omega]
  · simp [h, show i < n - 1 by omega, Nat.add_comm]

theorem sshiftRight_one {n : Nat} (x : BitVec n) : x.sshiftRight 1 = shiftInHigh x x.msb := by
  refine BitVec.eq_of_getLsbD_eq fun i hi => ?_
  rw [getLsbD_shiftInHigh _ _ hi, BitVec.getLsbD_sshiftRight]
  by_cases h : i + 1 = n
  · simp [h, show ¬ n ≤ i by omega, show ¬ 1 + i < n by omega]
  · rw [if_neg h, if_pos (by omega), Nat.add_comm 1 i]
    simp [hi]

theorem shiftInLow_false {n : Nat} (x : BitVec n) : shiftInLow x false = x <<< 1 := by simp [shiftInLow]

theorem shiftInHigh_false {n : Nat} (x : BitVec n) : shiftInHigh x false = x >>> 1 := by simp [shiftInHigh]

/-- A rotate through CF moves the word of CF and the operand round. -/
theorem step_rcl {n : Nat} (hn : 0 < n) (x : BitVec n) (c : Bool) :
    BitVec.ofBool x.msb ++ shiftInLow x c = (BitVec.ofBool c ++ x).rotateLeft 1 := by
  rw [rotateLeft_one (by omega)]
  refine BitVec.eq_of_getLsbD_eq fun i hi => ?_
  rw [getLsbD_shiftInLow _ _ hi, BitVec.getLsbD_append, BitVec.getLsbD_append, BitVec.msb_append,
    BitVec.msb_eq_getLsbD_last]
  by_cases h : i < n
  · rw [if_pos h, getLsbD_shiftInLow _ _ h, if_pos (show i - 1 < n by omega)]
    simp
  · simp [show i = n by omega, show n ≠ 0 by omega, show n - 1 < n by omega]

theorem step_rcr {n : Nat} (hn : 0 < n) (x : BitVec n) (c : Bool) :
    BitVec.ofBool (x.getLsbD 0) ++ shiftInHigh x c = (BitVec.ofBool c ++ x).rotateRight 1 := by
  rw [rotateRight_one (by omega)]
  refine BitVec.eq_of_getLsbD_eq fun i hi => ?_
  rw [getLsbD_shiftInHigh _ _ hi, BitVec.getLsbD_append, BitVec.getLsbD_append, BitVec.getLsbD_append, if_pos hn]
  by_cases h : i < n
  · rw [if_pos h, getLsbD_shiftInHigh _ _ h, if_neg (show ¬ i + 1 = 1 + n by omega)]
    by_cases hlast : i + 1 = n
    · simp [hlast]
    · rw [if_neg hlast, if_pos (by omega)]
  · simp [show i = n by omega, Nat.add_comm]

/-! ### Rotations add up -/

theorem getLsbD_rotateLeft_below {n : Nat} (x : BitVec n) (k : Nat) {i : Nat} (hi : i < n) :
    (x.rotateLeft k).getLsbD i = x.getLsbD (if i < k % n then n - k % n + i else i - k % n) := by
  rw [BitVec.getLsbD_rotateLeft, Bool.cond_decide, decide_eq_true hi, Bool.true_and, apply_ite x.getLsbD]

theorem getLsbD_rotateRight_below {n : Nat} (x : BitVec n) (k : Nat) {i : Nat} (hi : i < n) :
    (x.rotateRight k).getLsbD i = x.getLsbD (if i < n - k % n then k % n + i else i - (n - k % n)) := by
  rw [BitVec.getLsbD_rotateRight, Bool.cond_decide, decide_eq_true hi, Bool.true_and, apply_ite x.getLsbD]

theorem rotateLeft_zero {n : Nat} (x : BitVec n) : x.rotateLeft 0 = x :=
  BitVec.eq_of_getLsbD_eq fun i hi => by simp [getLsbD_rotateLeft_below x 0 hi]

theorem rotateRight_zero {n : Nat} (x : BitVec n) : x.rotateRight 0 = x :=
  BitVec.eq_of_getLsbD_eq fun i hi => by simp [hi]

theorem succ_mod_eq_ite {n : Nat} (hn : 1 < n) (k : Nat) :
    (k + 1) % n = if k % n + 1 = n then 0 else k % n + 1 := by
  have hk : k % n < n := Nat.mod_lt _ (by omega)
  rw [← Nat.mod_add_mod]
  split
  next h => rw [h, Nat.mod_self]
  next h => exact Nat.mod_eq_of_lt (by omega)

theorem rotateLeft_succ {n : Nat} (hn : 1 < n) (x : BitVec n) (k : Nat) :
    x.rotateLeft (k + 1) = (x.rotateLeft k).rotateLeft 1 := by
  have hk : k % n < n := Nat.mod_lt _ (by omega)
  refine BitVec.eq_of_getLsbD_eq fun i hi => ?_
  rw [rotateLeft_one hn, getLsbD_shiftInLow _ _ hi, BitVec.msb_eq_getLsbD_last, ← apply_ite (x.rotateLeft k).getLsbD,
    getLsbD_rotateLeft_below _ _ hi, getLsbD_rotateLeft_below _ _ (by split <;> omega), succ_mod_eq_ite hn]
  refine congrArg x.getLsbD ?_
  generalize k % n = j at hk
  split_ifs <;> omega

theorem rotateRight_succ {n : Nat} (hn : 1 < n) (x : BitVec n) (k : Nat) :
    x.rotateRight (k + 1) = (x.rotateRight k).rotateRight 1 := by
  have hk : k % n < n := Nat.mod_lt _ (by omega)
  refine BitVec.eq_of_getLsbD_eq fun i hi => ?_
  rw [rotateRight_one hn, getLsbD_shiftInHigh _ _ hi, ← apply_ite (x.rotateRight k).getLsbD,
    getLsbD_rotateRight_below _ _ hi, getLsbD_rotateRight_below _ _ (by split <;> omega), succ_mod_eq_ite hn]
  refine congrArg x.getLsbD ?_
  generalize k % n = j at hk
  split_ifs <;> omega

/-! ### Runs of steps -/

theorem run_succ {n : Nat} (op : ShiftOp) (k : Nat) (x : BitVec n) (c : Bool) :
    op.run (k + 1) x c = op.step (op.run k x c).1 (op.run k x c).2 := by
  induction k generalizing x c with
  | zero => rfl
  | succ k ih => exact ih _ _

/-- If one step moves the operand by one place, and places add up, then `k` steps move it by `k` places. -/
theorem run_fst_eq {n : Nat} {op : ShiftOp} {f : BitVec n → Nat → BitVec n} (hzero : ∀ x, f x 0 = x)
    (hsucc : ∀ x k, f x (k + 1) = f (f x k) 1) (hstep : ∀ x c, (op.step x c).1 = f x 1) (k : Nat) (x : BitVec n)
    (c : Bool) : (op.run k x c).1 = f x k := by
  induction k with
  | zero => exact (hzero x).symm
  | succ k ih => rw [run_succ, hstep, ih, ← hsucc]

theorem run_through_carry {n : Nat} {op : ShiftOp} {f : BitVec (1 + n) → Nat → BitVec (1 + n)} (hzero : ∀ x, f x 0 = x)
    (hsucc : ∀ x k, f x (k + 1) = f (f x k) 1)
    (hstep : ∀ (x : BitVec n) (c : Bool), BitVec.ofBool (op.step x c).2 ++ (op.step x c).1 = f (BitVec.ofBool c ++ x) 1)
    (k : Nat) (x : BitVec n) (c : Bool) :
    BitVec.ofBool (op.run k x c).2 ++ (op.run k x c).1 = f (BitVec.ofBool c ++ x) k := by
  induction k with
  | zero => exact (hzero _).symm
  | succ k ih => rw [run_succ, hstep, ih, ← hsucc]

section Runs

variable {n : Nat} (x : BitVec n) (c : Bool) (k : Nat)

theorem run_shl_fst : (ShiftOp.run .shl k x c).1 = x <<< k :=
  run_fst_eq (op := .shl) (f := (· <<< ·)) BitVec.shiftLeft_zero (fun x k => BitVec.shiftLeft_add x k 1)
    (fun x _ => shiftInLow_false x) k x c

theorem run_shr_fst : (ShiftOp.run .shr k x c).1 = x >>> k :=
  run_fst_eq (op := .shr) (f := (· >>> ·)) BitVec.ushiftRight_zero (fun x k => BitVec.shiftRight_add x k 1)
    (fun x _ => shiftInHigh_false x) k x c

theorem run_sar_fst : (ShiftOp.run .sar k x c).1 = x.sshiftRight k :=
  run_fst_eq (op := .sar) (f := BitVec.sshiftRight) (fun _ => BitVec.sshiftRight_zero)
    (fun _ _ => BitVec.sshiftRight_add) (fun x _ => (sshiftRight_one x).symm) k x c

theorem run_rol_fst (hn : 1 < n) : (ShiftOp.run .rol k x c).1 = x.rotateLeft k :=
  run_fst_eq (op := .rol) (f := BitVec.rotateLeft) rotateLeft_zero (rotateLeft_succ hn)
    (fun x _ => (rotateLeft_one hn x).symm) k x c

theorem run_ror_fst (hn : 1 < n) : (ShiftOp.run .ror k x c).1 = x.rotateRight k :=
  run_fst_eq (op := .ror) (f := BitVec.rotateRight) rotateRight_zero (rotateRight_succ hn)
    (fun x _ => (rotateRight_one hn x).symm) k x c

theorem run_rcl (hn : 0 < n) :
    BitVec.ofBool (ShiftOp.run .rcl k x c).2 ++ (ShiftOp.run .rcl k x c).1 = (BitVec.ofBool c ++ x).rotateLeft k :=
  run_through_carry (op := .rcl) (f := BitVec.rotateLeft) rotateLeft_zero (rotateLeft_succ (by omega))
    (fun x c => step_rcl hn x c) k x c

theorem run_rcr (hn : 0 < n) :
    BitVec.ofBool (ShiftOp.run .rcr k x c).2 ++ (ShiftOp.run .rcr k x c).1 = (BitVec.ofBool c ++ x).rotateRight k :=
  run_through_carry (op := .rcr) (f := BitVec.rotateRight) rotateRight_zero (rotateRight_succ (by omega))
    (fun x c => step_rcr hn x c) k x c

theorem run_shl_succ :
    ShiftOp.run .shl (k + 1) x c = (x <<< (k + 1), if k + 1 ≤ n then x.getLsbD (n - (k + 1)) else false) := by
  refine Prod.ext (run_shl_fst x c (k + 1)) ?_
  rw [run_succ]
  show BitVec.msb (ShiftOp.run .shl k x c).1 = if k + 1 ≤ n then x.getLsbD (n - (k + 1)) else false
  rw [run_shl_fst, BitVec.msb_shiftLeft, BitVec.getMsbD_eq_getLsbD, Nat.sub_sub, Nat.add_comm 1 k]
  by_cases h : k + 1 ≤ n
  · rw [decide_eq_true (Nat.lt_of_succ_le h), Bool.true_and, if_pos h]
  · rw [decide_eq_false (fun hlt => h (Nat.succ_le_of_lt hlt)), Bool.false_and, if_neg h]

theorem run_shr_succ : ShiftOp.run .shr (k + 1) x c = (x >>> (k + 1), x.getLsbD k) := by
  refine Prod.ext (run_shr_fst x c (k + 1)) ?_
  rw [run_succ]
  show BitVec.getLsbD (ShiftOp.run .shr k x c).1 0 = _
  rw [run_shr_fst, BitVec.getLsbD_ushiftRight, Nat.add_zero]

theorem run_sar_succ (hn : 0 < n) :
    ShiftOp.run .sar (k + 1) x c = (x.sshiftRight (k + 1), if k + 1 ≤ n then x.getLsbD k else x.msb) := by
  refine Prod.ext (run_sar_fst x c (k + 1)) ?_
  rw [run_succ]
  show BitVec.getLsbD (ShiftOp.run .sar k x c).1 0 = _
  rw [run_sar_fst, BitVec.getLsbD_sshiftRight, decide_eq_false (Nat.not_le.2 hn), Nat.add_zero]
  rfl

theorem run_rol_succ (hn : 1 < n) :
    ShiftOp.run .rol (k + 1) x c = (x.rotateLeft (k + 1), (x.rotateLeft (k + 1)).getLsbD 0) := by
  refine Prod.ext (run_rol_fst x c (k + 1) hn) ?_
  rw [run_succ, rotateLeft_succ hn, rotateLeft_one hn, getLsbD_shiftInLow _ _ (by omega), if_pos rfl,
    ← run_rol_fst x c k hn]
  rfl

theorem run_ror_succ (hn : 1 < n) :
    ShiftOp.run .ror (k + 1) x c = (x.rotateRight (k + 1), (x.rotateRight (k + 1)).msb) := by
  refine Prod.ext (run_ror_fst x c (k + 1) hn) ?_
  rw [run_succ, rotateRight_succ hn, rotateRight_one hn, BitVec.msb_eq_getLsbD_last, getLsbD_shiftInHigh _ _ (by omega),
    if_pos (by omega), ← run_ror_fst x c k hn]
  rfl

end Runs

/-! ### The flags -/

/-- OF after a shift or rotate by one, as each rule says. -/
theorem overflow_eq {n : Nat} (hn : 1 < n) (op : ShiftOp) (x r : BitVec n) (c : Bool) :
    (op = .rol ∨ op = .rcl ∨ op = .shl → op.overflow x r c = (r.getLsbD (n - 1) ^^ c)) ∧
      (op = .ror ∨ op = .rcr → op.overflow x r c = (r.getLsbD (n - 1) ^^ r.getLsbD (n - 2))) ∧
      (op = .shr → op.overflow x r c = x.getLsbD (n - 1)) ∧ (op = .sar → op.overflow x r c = false) := by
  have hnext : r.getMsbD 1 = r.getLsbD (n - 2) := by
    rw [BitVec.getMsbD_eq_getLsbD, decide_eq_true hn, Bool.true_and, Nat.sub_sub]
  refine ⟨?_, ?_, ?_, ?_⟩
  · rintro (rfl | rfl | rfl) <;> exact congrArg (· ^^ c) (BitVec.msb_eq_getLsbD_last r)
  · rintro (rfl | rfl) <;> exact congrArg₂ (· ^^ ·) (BitVec.msb_eq_getLsbD_last r) hnext
  · rintro rfl
    exact BitVec.msb_eq_getLsbD_last x
  · rintro rfl
    rfl

/-- Settles O32. -/
theorem shiftStepsAreShifts : Obligations.ShiftStepsAreShifts := by
  intro w x c k n
  have hw : 1 < w.bits := by cases w <;> decide
  refine ⟨run_shl_succ x c k, run_shr_succ x c k, run_sar_succ x c k (by omega), run_rol_succ x c k hw,
    run_ror_succ x c k hw, run_rcl x c n (by omega), run_rcr x c n (by omega), fun s op => ?_⟩
  intro y g
  obtain ⟨hzf, hsf, hpf⟩ := szp_describes s.flags y.1
  refine ⟨rfl, ?_, ?_, ?_, ?_, ?_, fun hone => ?_⟩
  · cases op <;> rfl
  · cases op <;> rfl
  · cases op <;> rfl
  · rintro (rfl | rfl | rfl | rfl) <;> exact ⟨rfl, rfl, rfl, rfl⟩
  · rintro (rfl | rfl | rfl) <;> exact ⟨hzf, hsf, hpf⟩
  · have hofl : g.ofl = op.overflow x y.1 y.2 := if_pos hone
    rw [hofl]
    exact overflow_eq hw op x y.1 y.2

end Sys2Proof.Proofs
end

section
/-! ENTER: the saved BP, the display copied from the enclosing frame and the new frame pointer are one chain of
pushes. -/

namespace Sys2Proof.Proofs

open Sys2Proof.Machine Sys2Proof.Safety

theorem displayHeld_iff {s : State} {n : Nat} :
    displayHeld s n = true ↔
      ∀ k, k < n → plain s .word s.segs.ss (s.regs.bp - BitVec.ofNat 16 (2 * (k + 1))) = true := by
  induction n with
  | zero => simp [displayHeld]
  | succ n ih => rw [displayHeld, Bool.and_eq_true, ih, Nat.forall_lt_succ_right, and_comm]

/-- Pushes of other words do not look at BP. -/
theorem pushes_setBp (s : State) (b : Word) (l : List Word) : (pushes s l).setBp b = pushes (s.setBp b) l := by
  induction l with
  | nil => rfl
  | cons v below ih =>
    rw [pushes, pushes, ← ih]
    rfl

theorem roomFor_setBp (s : State) (b : Word) (n : Nat) : roomFor (s.setBp b) n = roomFor s n := roomFor_congr n

/-- What lies on the stack after BP is saved and `k` frame pointers are copied, the last copy first. -/
def displayed (s : State) : Nat → List Word
  | 0 => [s.regs.bp]
  | k + 1 =>
    (pushes s (displayed s k)).loadWord (phys s.segs.ss (s.regs.bp - BitVec.ofNat 16 (2 * (k + 1)))) :: displayed s k

theorem length_displayed (s : State) (k : Nat) : (displayed s k).length = k + 1 := by
  induction k with
  | zero => rfl
  | succ k ih => rw [displayed, List.length_cons, ih]

/-- The state once `k` frame pointers are copied: BP has gone down with them. -/
def copiedFrames (s : State) (k : Nat) : State :=
  pushes (s.setBp (s.regs.bp - BitVec.ofNat 16 (2 * k))) (displayed s k)

theorem copiedFrames_zero (s : State) : copiedFrames s 0 = pushed s s.regs.bp := by
  show pushes (s.setBp (s.regs.bp - 0#16)) [s.regs.bp] = _
  rw [BitVec.sub_zero]
  rfl

theorem copiedFrames_bp (s : State) (k : Nat) :
    (copiedFrames s k).regs.bp - 2 = s.regs.bp - BitVec.ofNat 16 (2 * (k + 1)) := by
  rw [copiedFrames, pushes_regs, ofNat_two_mul_succ]
  exact BitVec.sub_sub _ _ _

theorem copiedFrames_setBp (s : State) (k : Nat) (b : Word) :
    (copiedFrames s k).setBp b = pushes (s.setBp b) (displayed s k) :=
  pushes_setBp _ _ _

section Copies

variable {s : State} {n : Nat} (hu : s.undisturbed = true) (hroom : roomFor s (n + 2) = true)
  (hheld : displayHeld s n = true)

include hu hroom

/-- One copy reads the next frame pointer down and pushes it. -/
theorem copyFrames_succ (hheld : displayHeld s n = true) {j k : Nat} (hj : j < n) :
    copyFrames (k + 1) (copiedFrames s j) = copyFrames k (copiedFrames s (j + 1)) := by
  have hplain : plain (pushes (s.setBp (s.regs.bp - BitVec.ofNat 16 (2 * (j + 1)))) (displayed s j)) .word s.segs.ss
      (s.regs.bp - BitVec.ofNat 16 (2 * (j + 1))) = true :=
    (plain_pushes _ _ _).trans (displayHeld_iff.1 hheld j hj)
  have hu' : (pushes (s.setBp (s.regs.bp - BitVec.ofNat 16 (2 * (j + 1)))) (displayed s j)).undisturbed = true :=
    pushes_undisturbed.trans hu
  have hss : (copiedFrames s j).segs.ss = s.segs.ss := congrArg Segs.ss pushes_segs
  have hmem (b : Word) (a : Addr) :
      (pushes (s.setBp b) (displayed s j)).loadWord a = (pushes s (displayed s j)).loadWord a := by
    rw [← pushes_setBp]
    rfl
  rw [copyFrames, copiedFrames_bp, copiedFrames_setBp, hss, readSeg_plain hu' hplain, seq_next]
  refine (pushThen_pushes (s := s.setBp (s.regs.bp - BitVec.ofNat 16 (2 * (j + 1)))) hu
    ((roomFor_setBp _ _ _).trans hroom) ((length_displayed s j).trans_lt (by omega)) _ _).trans ?_
  rw [copiedFrames, displayed, ← hmem]
  rfl

theorem copyFrames_copied (hheld : displayHeld s n = true) {j k : Nat} (hk : j + k ≤ n) :
    copyFrames k (copiedFrames s j) = .next (copiedFrames s (j + k)) := by
  induction k generalizing j with
  | zero => rfl
  | succ k ih =>
    rw [copyFrames_succ hu hroom hheld (by omega), ih (by omega), Nat.add_right_comm]
    rfl

/-- What ENTER leaves on the stack at a level of 1 or more, the frame pointer last. -/
theorem exec_enter_level (hheld : displayHeld s n = true) {size : Word} {level : Byte}
    (hlevel : level.toNat % 32 = n + 1) :
    exec (.enter size level) s =
      .next ((pushes (s.setBp (s.regs.sp - 2)) ((s.regs.sp - 2) :: displayed s n)).setSp
        (s.regs.sp - BitVec.ofNat 16 (2 * (n + 2)) - size)) := by
  have hfirst : push s.regs.bp s = .next (copiedFrames s 0) := by
    rw [copiedFrames_zero]
    exact push_pushes (l := []) hu hroom (by simp) _
  have hsp : (copiedFrames s 0).regs.sp = s.regs.sp - 2 := by rw [copiedFrames_zero]; rfl
  have hlast : push (s.regs.sp - 2) (copiedFrames s n) =
      .next (pushes (s.setBp (s.regs.bp - BitVec.ofNat 16 (2 * n))) ((s.regs.sp - 2) :: displayed s n)) :=
    push_pushes (s := s.setBp (s.regs.bp - BitVec.ofNat 16 (2 * n))) hu ((roomFor_setBp _ _ _).trans hroom)
      ((length_displayed s n).trans_lt (by omega)) _
  have hend : (pushes (s.setBp (s.regs.bp - BitVec.ofNat 16 (2 * n))) ((s.regs.sp - 2) :: displayed s n)).regs.sp =
      s.regs.sp - BitVec.ofNat 16 (2 * (n + 2)) := by
    rw [pushes_regs, List.length_cons, length_displayed]
    rfl
  show execEnter size level s = _
  rw [execEnter, hfirst, andThen_next, hsp, hlevel]
  show andThen (andThen (copyFrames n (copiedFrames s 0)) _) _ = _
  rw [copyFrames_copied hu hroom hheld (j := 0) (by omega), andThen_next, Nat.zero_add, hlast, andThen_next, hend,
    pushes_setBp]
  rfl

end Copies

/-! ### What the stack then holds -/

theorem getElem_displayed {s : State} {k i : Nat} (hi : i < k) (h : k - (i + 1) < (displayed s k).length) :
    (displayed s k)[k - (i + 1)] =
      (pushes s (displayed s i)).loadWord (phys s.segs.ss (s.regs.bp - BitVec.ofNat 16 (2 * (i + 1)))) := by
  induction k with
  | zero => cases hi
  | succ k ih =>
    obtain rfl | hlt := Nat.eq_or_lt_of_le (Nat.le_of_lt_succ hi)
    · simp [displayed]
    · have hindex : k + 1 - (i + 1) = k - (i + 1) + 1 := by omega
      simp only [hindex, displayed, List.getElem_cons_succ]
      exact ih hlt _

theorem getElem_displayed_last {s : State} {k : Nat} (h : k < (displayed s k).length) :
    (displayed s k)[k] = s.regs.bp := by
  induction k with
  | zero => rfl
  | succ k ih => exact ih _

/-- A frame pointer that shares no byte with the slots is copied as it was. -/
theorem copied_eq {s : State} {k i : Nat} (hi : i < k) (hroom : roomFor s (k + 2) = true)
    (hheld : displayHeld s k = true)
    (hapart : ∀ i j, i < 2 * k → j < 2 * (k + 2) →
      s.regs.bp - BitVec.ofNat 16 (i + 1) ≠ s.regs.sp - BitVec.ofNat 16 (j + 1)) :
    (pushes s (displayed s i)).loadWord (phys s.segs.ss (s.regs.bp - BitVec.ofNat 16 (2 * (i + 1)))) =
      s.loadWord (phys s.segs.ss (s.regs.bp - BitVec.ofNat 16 (2 * (i + 1)))) := by
  have hroom' : roomFor s (displayed s i).length = true :=
    roomFor_iff.2 fun j hj => roomFor_iff.1 hroom j (by rw [length_displayed] at hj; omega)
  have hbyte (m : Nat) (hm : m < 2 * k) :
      (pushes s (displayed s i)).loadByte (phys s.segs.ss (s.regs.bp - BitVec.ofNat 16 (m + 1))) =
        s.loadByte (phys s.segs.ss (s.regs.bp - BitVec.ofNat 16 (m + 1))) :=
    loadByte_pushes hroom' fun j hj he => hapart m j hm (by rw [length_displayed] at hj; omega) (phys_inj.1 he)
  have hnext : s.regs.bp - BitVec.ofNat 16 (2 * (i + 1)) + 1 = s.regs.bp - BitVec.ofNat 16 (2 * i + 1) := by
    rw [show 2 * (i + 1) = 2 * i + 1 + 1 from by omega, BitVec.ofNat_add _ 1]
    generalize BitVec.ofNat 16 (2 * i + 1) = x
    bv_omega
  rw [State.loadWord, State.loadWord, phys_succ (ne_end_of_plain (displayHeld_iff.1 hheld i hi)), hnext,
    hbyte (2 * i) (by omega)]
  exact congrArg (wordOfBytes · _) (hbyte (2 * i + 1) (by omega))

/-- Settles O40. -/
theorem enterBuildsFrame : Obligations.EnterBuildsFrame := by
  intro s size level k hwf hu
  refine ⟨fun hlevel hroom => ?_, fun hlevel hroom hheld => ?_⟩
  · show execEnter size level s = _
    have hfirst : push s.regs.bp s = .next (pushed s s.regs.bp) := push_pushes (l := []) hu hroom (by simp) _
    rw [execEnter, hfirst, andThen_next, hlevel]
    rfl
  let stack := (s.regs.sp - 2) :: displayed s k
  have hlength : stack.length = k + 2 := congrArg Nat.succ (length_displayed s k)
  have hroom' : roomFor s stack.length = true := hlength.symm ▸ hroom
  have hlt : 2 * stack.length < 65536 := by omega
  let t := (pushes (s.setBp (s.regs.sp - 2)) stack).setSp (s.regs.sp - BitVec.ofNat 16 (2 * (k + 2)) - size)
  have hmem : t.mem = (pushes s stack).mem := by
    show (pushes (s.setBp (s.regs.sp - 2)) stack).mem = _
    rw [← pushes_setBp]
    rfl
  have hword {i : Nat} (hi : i < stack.length) :
      t.loadWord (phys s.segs.ss (s.regs.sp - BitVec.ofNat 16 (2 * (k + 2)) + BitVec.ofNat 16 (2 * i))) = stack[i] := by
    rw [loadWord_congr hmem, ← stackWord_pushes hwf hlt hroom' hi, stackWord, pushes_segs, pushes_regs, hlength]
  have hslot {i : Nat} (hi : i ≤ k + 1) : s.regs.sp - BitVec.ofNat 16 (2 * (k + 2)) + BitVec.ofNat 16 (2 * i) =
      s.regs.sp - BitVec.ofNat 16 (2 * (k + 2 - i)) := by
    rw [show 2 * (k + 2) = 2 * (k + 2 - i) + 2 * i by omega, BitVec.ofNat_add]
    generalize BitVec.ofNat 16 (2 * (k + 2 - i)) = x
    bv_omega
  refine ⟨t, exec_enter_level hu hroom hheld hlevel, ?_, pushes_segs, pushes_flags, ?_, fun a ha => ?_, ?_, ?_,
    fun hapart i hi hik => ?_⟩
  · show ({ (pushes _ stack).regs with sp := _ } : Regs) = _
    rw [pushes_regs]
    rfl
  · show (pushes _ stack).ip = _
    rw [pushes_kept]
    rfl
  · have hframe : (pushes s stack).loadByte a = s.loadByte a := loadByte_pushes hroom' fun j hj => ha j (hlength ▸ hj)
    rw [← hframe, State.loadByte, hmem]
    rfl
  · have h := hword (i := k + 1) (by omega)
    rw [hslot le_rfl, show k + 2 - (k + 1) = 1 by omega] at h
    exact h.trans (getElem_displayed_last _)
  · have h := hword (i := 0) (by omega)
    rwa [hslot (Nat.zero_le _)] at h
  · obtain ⟨i, rfl⟩ := Nat.exists_eq_add_of_le' hi
    have h := hword (i := k - (i + 1) + 1) (by omega)
    rw [hslot (by omega), show k + 2 - (k - (i + 1) + 1) = i + 1 + 1 by omega] at h
    exact h.trans ((getElem_displayed (Nat.lt_of_succ_le hik) _).trans (copied_eq hik hroom hheld hapart))

end Sys2Proof.Proofs
end

section
/-! The frame of the instructions that compute one value: each puts a value at its destination, after a change of the
flags and of the free values' count at most. -/

namespace Sys2Proof.Proofs

open Sys2Proof.Machine Sys2Proof.Safety

/-! ### What a value put at a place leaves -/

section Put

variable (s : State) (w : Width) (l : Loc) (v : BitVec w.bits)

theorem putOf_flags : (putOf s w l v).flags = s.flags := by
  cases l with
  | reg r => exact State.setReg_flags s w r v
  | mem seg off => exact storeAt_flags s w _ v

theorem getReg_putOf {r : Reg} (h : l ≠ .reg r) : (putOf s w l v).getReg w r = s.getReg w r := by
  cases l with
  | mem seg off => exact congrArg (fun g => ({ s with regs := g } : State).getReg w r) (storeAt_regs s w _ v)
  | reg q =>
    have hne : r ≠ q := fun e => h (e ▸ rfl)
    cases w with
    | byte => exact Regs.get8_set8_ne s.regs v hne
    | word => exact Regs.get16_set16_ne s.regs v hne

/-- A byte goes to half of AX, CX, DX or BX, or to memory. -/
theorem putOf_byte_regs (l : Loc) (v : Byte) :
    (putOf s .byte l v).regs.sp = s.regs.sp ∧ (putOf s .byte l v).regs.bp = s.regs.bp ∧
      (putOf s .byte l v).regs.si = s.regs.si ∧ (putOf s .byte l v).regs.di = s.regs.di := by
  cases l with
  | mem seg off => exact ⟨rfl, rfl, rfl, rfl⟩
  | reg r => cases r <;> exact ⟨rfl, rfl, rfl, rfl⟩

theorem loadByte_putOf {a : Addr} (h : ¬ Covers w l a) : (putOf s w l v).loadByte a = s.loadByte a := by
  cases l with
  | reg r => exact congrArg (·.get a.toNat) (State.setReg_mem s w r v)
  | mem seg off =>
    cases w with
    | byte => exact State.loadByte_storeByte_ne s (fun e => h (.inl e)) v
    | word => exact State.loadByte_storeWord_ne s (fun e => h (.inl e)) (fun e => h (.inr ⟨rfl, e⟩)) v

theorem putOf_frame :
    putOf s w l v =
      { s with regs := (putOf s w l v).regs, mem := (putOf s w l v).mem, stale := (putOf s w l v).stale } := by
  cases l <;> cases w <;> rfl

end Put

/-! ### Instructions that compute one value -/

/-- `t` is `s` with other flags and another count of free values, and then with a value at the destination. -/
def Computes (s : State) (i : Instr) (w : Width) (dst : Option Loc) (t : State) : Prop :=
  ∃ u : State, u = { s with flags := u.flags, free := u.free } ∧ flagsKept i s.flags u.flags ∧
    (t = u ∨ ∃ l v, dst = some l ∧ t = putOf u w l v)

section Computes

variable {s t u : State} {i : Instr} {w : Width}

theorem Computes.frame {dst : Option Loc} (h : Computes s i w dst t) :
    (∀ r, dst ≠ some (.reg r) → t.getReg w r = s.getReg w r) ∧
      (w = .byte → t.regs.sp = s.regs.sp ∧ t.regs.bp = s.regs.bp ∧ t.regs.si = s.regs.si ∧ t.regs.di = s.regs.di) ∧
      (∀ a : Addr, (∀ l, dst = some l → ¬ Covers w l a) → t.loadByte a = s.loadByte a) ∧
      flagsKept i s.flags t.flags ∧
      t = { s with regs := t.regs, flags := t.flags, mem := t.mem, stale := t.stale, free := t.free } := by
  obtain ⟨u, hu, hflags, rfl | ⟨l, v, rfl, rfl⟩⟩ := h
  · rw [hu] at hflags ⊢
    exact ⟨fun _ _ => rfl, fun _ => ⟨rfl, rfl, rfl, rfl⟩, fun _ _ => rfl, hflags, rfl⟩
  · have hkept := putOf_flags u w l v
    refine ⟨fun r hr => ?_, ?_, fun a ha => ?_, hkept ▸ hflags, ?_⟩
    · rw [getReg_putOf u w l v fun e => hr (congrArg some e), hu]
      rfl
    · rintro rfl
      have hregs : u.regs = s.regs := by rw [hu]
      exact hregs ▸ putOf_byte_regs u l v
    · rw [loadByte_putOf u w l v (ha l rfl), hu]
      rfl
    · rw [putOf_frame, hu]

theorem Computes.put {l : Loc} {v : BitVec w.bits} (hr : exec i s = .next (putOf u w l v)) (ht : exec i s = .next t)
    (hu : u = { s with flags := u.flags, free := u.free }) (hflags : flagsKept i s.flags u.flags) :
    Computes s i w (some l) t :=
  ⟨u, hu, hflags, .inr ⟨l, v, rfl, Host.Outcome.next.inj (ht.symm.trans hr)⟩⟩

/-- An instruction that only sets flags. -/
theorem Computes.flagsOnly (hr : exec i s = .next u) (ht : exec i s = .next t)
    (hu : u = { s with flags := u.flags, free := u.free }) (hflags : flagsKept i s.flags u.flags) :
    Computes s i w none t :=
  ⟨u, hu, hflags, .inl (Host.Outcome.next.inj (ht.symm.trans hr))⟩

theorem Computes.shift {op : ShiftOp} {l : Loc} {k : Byte} (hr : exec i s = .next (shifted s op w l k))
    (ht : exec i s = .next t) (hself : flagsKept i s.flags s.flags)
    (hflags : ∀ n x r c, flagsKept i s.flags (s.shiftFlags (n := w.bits) op n x r c).flags) :
    Computes s i w (some l) t := by
  obtain rfl : t = shifted s op w l k := Host.Outcome.next.inj (ht.symm.trans hr)
  rw [shifted]
  split
  · exact ⟨s, rfl, hself, .inl rfl⟩
  · exact ⟨_, rfl, hflags _ _ _ _, .inr ⟨l, _, rfl, rfl⟩⟩

end Computes

theorem multiplyImm_put {s : State} (hu : s.undisturbed = true) {rm : RM}
    (h : plainLoc s .word (s.locate rm) = true) (reg : Reg) (imm : Word) :
    ∃ wide v, multiplyImm reg rm imm s = .next (putOf (s.mulFlags wide) .word (.reg reg) v) :=
  ⟨_, _, seq_readRM_plain hu h _⟩

theorem shiftFlags_control {n : Nat} (s : State) (op : ShiftOp) (k : Nat) (x r : BitVec n) (c : Bool) :
    (s.shiftFlags op k x r c).flags.tf = s.flags.tf ∧ (s.shiftFlags op k x r c).flags.ifl = s.flags.ifl ∧
      (s.shiftFlags op k x r c).flags.df = s.flags.df := by
  cases op <;> exact ⟨rfl, rfl, rfl⟩

/-- Settles O43: each instruction's result is a value put at its destination. -/
theorem onlyTheDestinationChanges : Obligations.OnlyTheDestinationChanges := by
  intro s t i w src dst hu hd hp ht
  refine Computes.frame ?_
  obtain ⟨hmovRmReg, hmovRegRm, hmovRmImm, hmovReg8, hmovReg16, hmovAccMem, hmovMemAcc, hmovRmSreg, hlea⟩ :=
    movResults s hu
  obtain ⟨haddRmReg, haddRmImm, haddRm8, haddRm16, haddAcc, hsubRmReg, hsubRmImm, hsubRm8, hsubRm16, hsubAcc⟩ :=
    addSubtractResults s hu
  obtain ⟨hlogicRmReg, htestNot, hlogicRmImm, hlogicAcc, -⟩ := logicResults s hu
  obtain ⟨hincRm, hincReg⟩ := incDecNegResults s hu
  cases i with
  | movRmReg w rm reg => cases hd; exact .put (hmovRmReg _ _ _ hp) ht rfl rfl
  | movRegRm w reg rm => cases hd; exact .put (u := s) (l := .reg reg) (hmovRegRm _ _ _ hp) ht rfl rfl
  | movRmImm rm imm => cases hd; exact .put (hmovRmImm _ _ hp) ht rfl rfl
  | movReg8Imm reg imm => cases hd; exact .put (u := s) (l := .reg reg) (hmovReg8 _ _) ht rfl rfl
  | movReg16Imm reg imm => cases hd; exact .put (u := s) (l := .reg reg) (hmovReg16 _ _) ht rfl rfl
  | movAccMem w addr => cases hd; exact .put (u := s) (l := .reg .ax_al) (hmovAccMem _ _ hp) ht rfl rfl
  | movMemAcc w addr => cases hd; exact .put (u := s) (l := .mem _ addr) (hmovMemAcc _ _ hp) ht rfl rfl
  | movRmSreg rm q => cases hd; exact .put (hmovRmSreg _ _ hp) ht rfl rfl
  | lea reg mem => cases hd; exact .put (u := s) (l := .reg reg) (hlea _ _) ht rfl rfl
  | addRmReg d w rm reg => cases hd; exact .put (haddRmReg _ _ _ _ hp).1 ht rfl ⟨rfl, rfl, rfl⟩
  | adcRmReg d w rm reg => cases hd; exact .put (haddRmReg _ _ _ _ hp).2 ht rfl ⟨rfl, rfl, rfl⟩
  | addRmImm rm imm => cases hd; exact .put (haddRmImm _ _ hp).1 ht rfl ⟨rfl, rfl, rfl⟩
  | adcRmImm rm imm => cases hd; exact .put (haddRmImm _ _ hp).2 ht rfl ⟨rfl, rfl, rfl⟩
  | addRm8Imm8 rm imm => cases hd; exact .put (haddRm8 _ _ hp).1 ht rfl ⟨rfl, rfl, rfl⟩
  | adcRm8Imm8 rm imm => cases hd; exact .put (haddRm8 _ _ hp).2 ht rfl ⟨rfl, rfl, rfl⟩
  | addRm16Imm8 rm imm => cases hd; exact .put (haddRm16 _ _ hp).1 ht rfl ⟨rfl, rfl, rfl⟩
  | adcRm16Imm8 rm imm => cases hd; exact .put (haddRm16 _ _ hp).2 ht rfl ⟨rfl, rfl, rfl⟩
  | addAccImm imm => cases hd; exact .put (haddAcc _).1 ht rfl ⟨rfl, rfl, rfl⟩
  | adcAccImm imm => cases hd; exact .put (haddAcc _).2 ht rfl ⟨rfl, rfl, rfl⟩
  | subRmReg d w rm reg => cases hd; exact .put (hsubRmReg _ _ _ _ hp).1 ht rfl ⟨rfl, rfl, rfl⟩
  | sbbRmReg d w rm reg => cases hd; exact .put (hsubRmReg _ _ _ _ hp).2.1 ht rfl ⟨rfl, rfl, rfl⟩
  | cmpRmReg d w rm reg => cases hd; exact .flagsOnly (hsubRmReg _ _ _ _ hp).2.2 ht rfl ⟨rfl, rfl, rfl⟩
  | subRmImm rm imm => cases hd; exact .put (hsubRmImm _ _ hp).1 ht rfl ⟨rfl, rfl, rfl⟩
  | sbbRmImm rm imm => cases hd; exact .put (hsubRmImm _ _ hp).2.1 ht rfl ⟨rfl, rfl, rfl⟩
  | cmpRmImm rm imm => cases hd; exact .flagsOnly (hsubRmImm _ _ hp).2.2 ht rfl ⟨rfl, rfl, rfl⟩
  | subRm8Imm8 rm imm => cases hd; exact .put (hsubRm8 _ _ hp).1 ht rfl ⟨rfl, rfl, rfl⟩
  | sbbRm8Imm8 rm imm => cases hd; exact .put (hsubRm8 _ _ hp).2.1 ht rfl ⟨rfl, rfl, rfl⟩
  | cmpRm8Imm8 rm imm => cases hd; exact .flagsOnly (hsubRm8 _ _ hp).2.2 ht rfl ⟨rfl, rfl, rfl⟩
  | subRm16Imm8 rm imm => cases hd; exact .put (hsubRm16 _ _ hp).1 ht rfl ⟨rfl, rfl, rfl⟩
  | sbbRm16Imm8 rm imm => cases hd; exact .put (hsubRm16 _ _ hp).2.1 ht rfl ⟨rfl, rfl, rfl⟩
  | cmpRm16Imm8 rm imm => cases hd; exact .flagsOnly (hsubRm16 _ _ hp).2.2 ht rfl ⟨rfl, rfl, rfl⟩
  | subAccImm imm => cases hd; exact .put (hsubAcc _).1 ht rfl ⟨rfl, rfl, rfl⟩
  | sbbAccImm imm => cases hd; exact .put (hsubAcc _).2.1 ht rfl ⟨rfl, rfl, rfl⟩
  | cmpAccImm imm => cases hd; exact .flagsOnly (hsubAcc _).2.2 ht rfl ⟨rfl, rfl, rfl⟩
  | andRmReg d w rm reg => cases hd; exact .put (hlogicRmReg _ _ _ _ hp).1 ht rfl ⟨rfl, rfl, rfl⟩
  | orRmReg d w rm reg => cases hd; exact .put (hlogicRmReg _ _ _ _ hp).2.1 ht rfl ⟨rfl, rfl, rfl⟩
  | xorRmReg d w rm reg => cases hd; exact .put (hlogicRmReg _ _ _ _ hp).2.2 ht rfl ⟨rfl, rfl, rfl⟩
  | testRmReg w rm reg => cases hd; exact .flagsOnly (htestNot _ _ _ hp).1 ht rfl ⟨rfl, rfl, rfl⟩
  | notRm w rm => cases hd; exact .put (htestNot _ _ .ax_al hp).2 ht rfl rfl
  | andRmImm rm imm => cases hd; exact .put (hlogicRmImm _ _ hp).1 ht rfl ⟨rfl, rfl, rfl⟩
  | orRmImm rm imm => cases hd; exact .put (hlogicRmImm _ _ hp).2.1 ht rfl ⟨rfl, rfl, rfl⟩
  | xorRmImm rm imm => cases hd; exact .put (hlogicRmImm _ _ hp).2.2.1 ht rfl ⟨rfl, rfl, rfl⟩
  | testRmImm rm imm => cases hd; exact .flagsOnly (hlogicRmImm _ _ hp).2.2.2 ht rfl ⟨rfl, rfl, rfl⟩
  | andAccImm imm => cases hd; exact .put (hlogicAcc _).1 ht rfl ⟨rfl, rfl, rfl⟩
  | orAccImm imm => cases hd; exact .put (hlogicAcc _).2.1 ht rfl ⟨rfl, rfl, rfl⟩
  | xorAccImm imm => cases hd; exact .put (hlogicAcc _).2.2.1 ht rfl ⟨rfl, rfl, rfl⟩
  | testAccImm imm => cases hd; exact .flagsOnly (hlogicAcc _).2.2.2 ht rfl ⟨rfl, rfl, rfl⟩
  | incRm w rm => cases hd; exact .put (hincRm _ _ hp).1 ht rfl ⟨⟨rfl, rfl, rfl⟩, rfl⟩
  | decRm w rm => cases hd; exact .put (hincRm _ _ hp).2.1 ht rfl ⟨⟨rfl, rfl, rfl⟩, rfl⟩
  | negRm w rm => cases hd; exact .put (hincRm _ _ hp).2.2 ht rfl ⟨rfl, rfl, rfl⟩
  | incReg reg =>
    cases hd
    exact .put (u := s.setFlags _) (l := .reg reg) (hincReg _).1 ht rfl ⟨⟨rfl, rfl, rfl⟩, rfl⟩
  | decReg reg =>
    cases hd
    exact .put (u := s.setFlags _) (l := .reg reg) (hincReg _).2 ht rfl ⟨⟨rfl, rfl, rfl⟩, rfl⟩
  | imulRegRmImm16 reg rm imm =>
    cases hd
    obtain ⟨wide, v, h⟩ := multiplyImm_put hu hp reg imm
    exact .put (u := s.mulFlags wide) (l := .reg reg) h ht rfl ⟨rfl, rfl, rfl⟩
  | imulRegRmImm8 reg rm imm =>
    cases hd
    obtain ⟨wide, v, h⟩ := multiplyImm_put hu hp reg (imm.signExtend 16)
    exact .put (u := s.mulFlags wide) (l := .reg reg) h ht rfl ⟨rfl, rfl, rfl⟩
  | rolRm1 _ _ | rolRmCl _ _ | rolRmImm _ _ _ | rorRm1 _ _ | rorRmCl _ _ | rorRmImm _ _ _ | rclRm1 _ _ | rclRmCl _ _
  | rclRmImm _ _ _ | rcrRm1 _ _ | rcrRmCl _ _ | rcrRmImm _ _ _ =>
    cases hd
    exact .shift (shiftRm_plain hu hp) ht ⟨⟨rfl, rfl, rfl⟩, rfl, rfl, rfl, rfl⟩ fun _ _ _ _ =>
      ⟨⟨rfl, rfl, rfl⟩, rfl, rfl, rfl, rfl⟩
  | shlRm1 _ _ | shlRmCl _ _ | shlRmImm _ _ _ | shrRm1 _ _ | shrRmCl _ _ | shrRmImm _ _ _ | sarRm1 _ _ | sarRmCl _ _
  | sarRmImm _ _ _ =>
    cases hd
    exact .shift (shiftRm_plain hu hp) ht ⟨rfl, rfl, rfl⟩ fun _ _ _ _ => shiftFlags_control ..
  | _ => cases hd

end Sys2Proof.Proofs
end

section
/-! What an instruction leaves of memory on an undisturbed bus: a relation that says which bytes may differ, kept by the
reads, by the moves inside the CPU and, where the byte is permitted, by the stores. -/

namespace Sys2Proof.Proofs

open Sys2Proof.Machine Sys2Proof.Safety

/-- From an undisturbed bus nothing but the bytes `P` permits is stored to, and the bus stays undisturbed. -/
def Untouched (P : Addr → Prop) (s t : State) : Prop :=
  s.undisturbed = true → t.undisturbed = true ∧ ∀ a, ¬ P a → t.loadByte a = s.loadByte a

/-- A read leaves every operand where it is. -/
theorem locate_of_sameCpu {s t : State} (h : SameCpu s t) (rm : RM) : t.locate rm = s.locate rm := by
  obtain ⟨hregs, hsegs, -, -, -, hpfx⟩ := h
  cases rm with
  | reg r => rfl
  | mem m =>
    simp only [State.locate, State.memSeg, State.segment, State.getSeg, hsegs, hpfx]
    cases m <;> simp only [State.ea, State.baseSum, hregs]

section Rules

variable {P : Addr → Prop} {s t : State} {α : Type}

theorem Untouched.refl (s : State) : Untouched P s s := fun hu => ⟨hu, fun _ _ => rfl⟩

theorem Untouched.trans (a b c : State) (h : Untouched P a b) (g : Untouched P b c) : Untouched P a c := fun hu =>
  have ⟨hu', hmem⟩ := h hu
  have ⟨hu'', hmem'⟩ := g hu'
  ⟨hu'', fun x hx => (hmem' x hx).trans (hmem x hx)⟩

/-- A move inside the CPU, which leaves memory, the agenda and the prefixes. -/
theorem Untouched.move (mem : t.mem = s.mem) (agenda : t.agenda = s.agenda) (pfx : t.pfx = s.pfx) :
    Untouched P s t := fun hu =>
  ⟨by rw [State.undisturbed, agenda, pfx]; exact hu, fun a _ => congrArg (·.get a.toNat) mem⟩

theorem Untouched.storeByte {a : Addr} (ha : P a) (v : Byte) : Untouched P s (s.storeByte a v) := fun hu =>
  ⟨hu, fun x hx => State.loadByte_storeByte_ne s (fun e => hx (by rw [e]; exact ha)) v⟩

/-- The bus stays undisturbed by a change of the prefixes that takes no lock away. -/
theorem Untouched.setPfx (x : Pfx) (hlock : s.pfx.lock = true → x.lock = true) :
    Untouched P s { s with pfx := x } := fun hu => by
  refine ⟨?_, fun _ _ => rfl⟩
  unfold State.undisturbed at hu ⊢
  dsimp only
  split
  · next hb =>
    rw [hb, Bool.and_eq_true] at hu
    rw [Bool.and_eq_true]
    exact ⟨hlock hu.1, hu.2⟩
  · rfl

theorem Untouched.setReg (s : State) (w : Width) (r : Reg) (v : BitVec w.bits) : Untouched P s (s.setReg w r v) :=
  .move (State.setReg_mem ..) (State.setReg_agenda ..) (State.setReg_pfx ..)

/-- An outcome may be judged on an undisturbed bus. -/
theorem after_of_undisturbed {x : Out} (h : s.undisturbed = true → After (Untouched P) s x) :
    After (Untouched P) s x := fun t ht hu => h hu t ht hu

theorem afterValue_of_undisturbed {x : Res α} (h : s.undisturbed = true → AfterValue (Untouched P) s x) :
    AfterValue (Untouched P) s x := fun t ht hu => h hu t ht hu

/-- What follows may use another relation `Q` of what it follows: that a read leaves the registers, for one. -/
theorem after_seq_with {Q : State → State → Prop} {x : Res α} {k : α → State → Out}
    (hx : AfterValue (Untouched P) s x) (hq : AfterValue Q s x) (hk : ∀ a u, Q s u → After (Untouched P) u (k a u)) :
    After (Untouched P) s (seq x k) := by
  intro t ht
  cases x with
  | next y =>
    have hend : Ends (.next y : Res α) Prod.snd y.2 := .inl ⟨y, rfl, rfl⟩
    exact .trans _ _ _ (hx y.2 hend) (hk y.1 y.2 (hq y.2 hend) t ht)
  | fault r => exact hx t (by rcases ht with ⟨_, h, -⟩ | h <;> cases h; exact .inr rfl)
  | refused r => rcases ht with ⟨_, h, -⟩ | h <;> cases h

/-! ### Bus cycles -/

theorem readReg_untouched (r : BlockReg) : Untouched P s (s.readReg r).2 := by
  cases r with
  | poll =>
    simp only [State.readReg, State.readPoll]
    split <;> exact .move rfl rfl rfl
  | pollStatus =>
    simp only [State.readReg, State.readPollStatus]
    split <;> exact .move rfl rfl rfl
  | _ => exact .move rfl rfl rfl

theorem writeReg_untouched (r : BlockReg) (v : Word) : After (Untouched P) s (s.writeReg r v) := by
  cases r with
  | reloc =>
    simp only [State.writeReg, State.writeReloc]
    split
    · exact after_refused _
    · split <;> exact after_next (.move rfl rfl rfl)
  | dmaCtrl c =>
    simp only [State.writeReg]
    split
    · exact after_refused _
    · cases c <;> exact after_next (.move rfl rfl rfl)
  | srcCtrl k =>
    simp only [State.writeReg]
    split
    · exact after_refused _
    · exact after_next (.move rfl rfl rfl)
  | rmxCtrl k =>
    simp only [State.writeReg]
    split
    · exact after_next (.move rfl rfl rfl)
    · exact after_refused _
  | _ => exact after_next (.move rfl rfl rfl)

theorem presentByte_untouched (a : Addr) : Untouched P s (s.presentByte a).2 := by
  unfold State.presentByte
  split <;> exact .move rfl rfl rfl

theorem driveByte_untouched {a : Addr} (ha : P a) (v : Byte) : Untouched P s (s.driveByte a v) := by
  unfold State.driveByte
  split
  · exact .storeByte ha v
  · exact .move rfl rfl rfl
  · exact .refl s

theorem devicePort_untouched (p : Word) : Untouched P s (s.devicePort p).2 := by
  unfold State.devicePort
  split <;> exact .move rfl rfl rfl

theorem readBlock_untouched (off : Byte) : Untouched P s (s.readBlock off).2 := by
  unfold State.readBlock
  split
  · exact readReg_untouched _
  · exact .move rfl rfl rfl

theorem writeBlock_untouched (off : Byte) (v : Word) : After (Untouched P) s (s.writeBlock off v) := by
  unfold State.writeBlock
  split
  · exact writeReg_untouched _ v
  · exact after_refused _

theorem memRead_untouched (w : Width) (a : Addr) (s : State) : AfterValue (Untouched P) s (memRead w a s) := by
  refine afterValue_of_undisturbed fun hu => ?_
  rw [memRead, interpose_undisturbed hu, andThen_next]
  cases w with
  | byte =>
    rw [memReadCycle]
    split
    · exact afterValue_refused _
    · split
      · exact afterValue_refused _
      · exact afterValue_pair (presentByte_untouched a)
  | word =>
    rw [memReadCycle]
    split
    · split
      · exact afterValue_refused _
      · exact afterValue_pair (readBlock_untouched _)
    · split
      · exact afterValue_refused _
      · rw [wordReadCycles, splits_undisturbed hu]
        exact afterValue_pair (.trans _ _ _ (presentByte_untouched a) (presentByte_untouched (a + 1)))

theorem memWrite_untouched {w : Width} {a : Addr} (h0 : P a) (h1 : w = .word → P (a + 1)) (v : BitVec w.bits)
    (s : State) : After (Untouched P) s (memWrite w a v s) := by
  refine after_of_undisturbed fun hu => ?_
  rw [memWrite, interpose_undisturbed hu, andThen_next]
  cases w with
  | byte =>
    rw [memWriteCycle]
    split
    · exact after_refused _
    · split
      · exact after_refused _
      · exact after_next (driveByte_untouched h0 v)
  | word =>
    have hdrive : Untouched P s (s.driveWord a v) :=
      .trans _ _ _ (driveByte_untouched h0 _) (driveByte_untouched (h1 rfl) _)
    rw [memWriteCycle]
    split
    · split
      · exact after_refused _
      · exact after_of Untouched.trans hdrive (writeBlock_untouched _ v)
    · split
      · exact after_refused _
      · rw [wordWriteCycles, splits_undisturbed hu]
        exact after_next hdrive

theorem ioRead_untouched (w : Width) (p : Word) (s : State) : AfterValue (Untouched P) s (ioRead w p s) := by
  refine afterValue_of_undisturbed fun hu => ?_
  rw [ioRead, interpose_undisturbed hu, andThen_next]
  cases w with
  | byte =>
    rw [ioReadCycle]
    split_ifs
    · exact afterValue_refused _
    · exact afterValue_refused _
    · exact afterValue_refused _
    · exact afterValue_pair (devicePort_untouched p)
  | word =>
    rw [ioReadCycle, portReadCycles, splits_undisturbed hu]
    split_ifs
    · exact afterValue_refused _
    · exact afterValue_refused _
    · exact afterValue_pair (readBlock_untouched _)
    · exact afterValue_refused _
    · exact afterValue_next (.trans _ _ _ (devicePort_untouched p) (devicePort_untouched (p + 1)))

theorem ioWrite_untouched (w : Width) (p : Word) (v : BitVec w.bits) (s : State) :
    After (Untouched P) s (ioWrite w p v s) := by
  refine after_of_undisturbed fun hu => ?_
  rw [ioWrite, interpose_undisturbed hu, andThen_next]
  cases w with
  | byte =>
    rw [ioWriteCycle]
    split_ifs
    · exact after_refused _
    · exact after_refused _
    · exact after_refused _
    · exact after_next (.move rfl rfl rfl)
  | word =>
    rw [ioWriteCycle, portWriteCycles, splits_undisturbed hu]
    split_ifs
    · exact after_refused _
    · exact after_refused _
    · exact after_of Untouched.trans (.move rfl rfl rfl) (writeBlock_untouched _ v)
    · exact after_refused _
    · exact after_next (.move rfl rfl rfl)

/-! ### Operands and the stack -/

theorem readSeg_untouched (w : Width) (seg off : Word) (s : State) :
    AfterValue (Untouched P) s (readSeg w seg off s) := by
  cases w with
  | byte => exact memRead_untouched .byte _ s
  | word =>
    rw [readSeg]
    split
    · exact afterValue_refused _
    · exact memRead_untouched .word _ s

theorem writeSeg_untouched {w : Width} {seg off : Word} (hP : ∀ x, Covers w (.mem seg off) x → P x) (v : BitVec w.bits)
    (s : State) : After (Untouched P) s (writeSeg w seg off v s) := by
  have hwrite := memWrite_untouched (hP _ (.inl rfl)) (fun hw => hP _ (.inr ⟨hw, rfl⟩)) v s
  cases w with
  | byte => exact hwrite
  | word =>
    rw [writeSeg]
    split
    · exact after_refused _
    · exact hwrite

theorem readPointer_untouched (seg off : Word) (s : State) : AfterValue (Untouched P) s (readPointer seg off s) := by
  unfold readPointer
  split
  · exact afterValue_refused _
  · exact afterValue_seq Untouched.trans (readSeg_untouched .word seg off s) fun o t =>
      afterValue_seq Untouched.trans (readSeg_untouched .word seg _ t) fun b u => afterValue_next (.refl u)

theorem readLoc_untouched (w : Width) (l : Loc) (s : State) : AfterValue (Untouched P) s (readLoc w l s) := by
  cases l with
  | reg r => exact afterValue_next (.refl s)
  | mem seg off => exact readSeg_untouched w seg off s

theorem writeLoc_untouched {w : Width} {l : Loc} (hP : ∀ x, Covers w l x → P x) (v : BitVec w.bits) (s : State) :
    After (Untouched P) s (writeLoc w l v s) := by
  cases l with
  | reg r => exact after_next (.setReg s w r v)
  | mem seg off => exact writeSeg_untouched hP v s

theorem pop_untouched (s : State) : AfterValue (Untouched P) s (pop s) :=
  afterValue_seq Untouched.trans (readSeg_untouched .word _ _ s) fun _ _ => afterValue_next (.move rfl rfl rfl)

/-- A pop leaves every operand where it is: none is addressed through SP (R176). -/
theorem pop_locate (rm : RM) (s : State) : AfterValue (fun s t => t.locate rm = s.locate rm) s (pop s) := by
  have trans (a b c : State) (h : b.locate rm = a.locate rm) (g : c.locate rm = b.locate rm) :
      c.locate rm = a.locate rm := g.trans h
  exact afterValue_seq trans (fun t ht => locate_of_sameCpu (busRel_sameCpu.readSeg .word _ _ s t ht) rm) fun _ t =>
    afterValue_next (locate_setSp t _ rm)

theorem push_untouched (hP : ∀ x, Covers .word (.mem s.segs.ss (s.regs.sp - 2)) x → P x) (v : Word) :
    After (Untouched P) s (push v s) :=
  after_of Untouched.trans (.move rfl rfl rfl) (writeSeg_untouched (w := .word) hP v _)

/-- A read, then whatever the meaning does with the value. -/
theorem readThen_untouched {w : Width} {l : Loc} {k : BitVec w.bits → State → Out}
    (hk : ∀ a t, After (Untouched P) t (k a t)) : After (Untouched P) s (seq (readLoc w l s) k) :=
  after_seq Untouched.trans (readLoc_untouched w l s) hk

theorem popThen_untouched {k : Word → State → Out} (hk : ∀ a t, After (Untouched P) t (k a t)) :
    After (Untouched P) s (seq (pop s) k) :=
  after_seq Untouched.trans (pop_untouched s) hk

end Rules

end Sys2Proof.Proofs
end

section
/-! What each instruction leaves of memory: the relation of the bytes stored to, through the shared operations of the
instructions, and the statement over all instructions that store to at most one place. -/

namespace Sys2Proof.Proofs

open Sys2Proof.Machine Sys2Proof.Safety

/-- The bytes of the place an instruction stores to, if there is one. -/
def Within (p : Option (Width × Loc)) (x : Addr) : Prop := ∃ w l, p = some (w, l) ∧ Covers w l x

theorem within_self {w : Width} {l : Loc} (x : Addr) (h : Covers w l x) : Within (some (w, l)) x := ⟨w, l, rfl, h⟩

section SharedOperations

variable {P : Addr → Prop} {s : State} {w : Width} {l : Loc}

/-! ### One value computed -/

section Results

variable (hP : ∀ x, Covers w l x → P x)

include hP

theorem addTo_untouched (c : Bool) (a b : BitVec w.bits) (s : State) : After (Untouched P) s (addTo c w l a b s) :=
  after_of Untouched.trans (.move rfl rfl rfl) (writeLoc_untouched hP _ _)

theorem subTo_untouched (c : Bool) (a b : BitVec w.bits) (s : State) : After (Untouched P) s (subTo c w l a b s) :=
  after_of Untouched.trans (.move rfl rfl rfl) (writeLoc_untouched hP _ _)

theorem logicTo_untouched (r : BitVec w.bits) (s : State) : After (Untouched P) s (logicTo w l r s) :=
  after_of Untouched.trans (.move rfl rfl rfl) (writeLoc_untouched hP _ _)

theorem increment_untouched (s : State) : After (Untouched P) s (increment w l s) :=
  readThen_untouched fun _ _ => after_of Untouched.trans (.move rfl rfl rfl) (writeLoc_untouched hP _ _)

theorem decrement_untouched (s : State) : After (Untouched P) s (decrement w l s) :=
  readThen_untouched fun _ _ => after_of Untouched.trans (.move rfl rfl rfl) (writeLoc_untouched hP _ _)

end Results

/-- An operation that stores to no byte but those of the place it is given. -/
def StoresAt (op : (w : Width) → Loc → BitVec w.bits → BitVec w.bits → State → Out) : Prop :=
  ∀ (P : Addr → Prop) (w : Width) (l : Loc), (∀ x, Covers w l x → P x) →
    ∀ a b s, After (Untouched P) s (op w l a b s)

/-- An operation that stores nowhere. -/
def StoresNowhere (op : (w : Width) → Loc → BitVec w.bits → BitVec w.bits → State → Out) : Prop :=
  ∀ (P : Addr → Prop) (w : Width) (l : Loc) (a b : BitVec w.bits) (s : State), After (Untouched P) s (op w l a b s)

theorem opAdd_storesAt : StoresAt opAdd := fun _ _ _ hP a b s => addTo_untouched hP _ a b s

theorem opAdc_storesAt : StoresAt opAdc := fun _ _ _ hP a b s => addTo_untouched hP _ a b s

theorem opSub_storesAt : StoresAt opSub := fun _ _ _ hP a b s => subTo_untouched hP _ a b s

theorem opSbb_storesAt : StoresAt opSbb := fun _ _ _ hP a b s => subTo_untouched hP _ a b s

theorem opAnd_storesAt : StoresAt opAnd := fun _ _ _ hP _ _ s => logicTo_untouched hP _ s

theorem opOr_storesAt : StoresAt opOr := fun _ _ _ hP _ _ s => logicTo_untouched hP _ s

theorem opXor_storesAt : StoresAt opXor := fun _ _ _ hP _ _ s => logicTo_untouched hP _ s

theorem opCmp_storesNowhere : StoresNowhere opCmp := fun _ _ _ _ _ _ => after_next (.move rfl rfl rfl)

theorem opTest_storesNowhere : StoresNowhere opTest := fun _ _ _ _ _ _ => after_next (.move rfl rfl rfl)

section Operands

variable {op : (w : Width) → Loc → BitVec w.bits → BitVec w.bits → State → Out}

theorem withRmReg_untouched {d : Dir} {rm : RM} {reg : Reg}
    (hop : ∀ a b t, After (Untouched P) t (op w (dstOf s d rm reg) a b t)) :
    After (Untouched P) s (withRmReg op d w rm reg s) :=
  readThen_untouched fun _ _ => by cases d <;> exact hop _ _ _

theorem withRmImm_untouched {rm : RM} {v : BitVec w.bits}
    (hop : ∀ a b t, After (Untouched P) t (op w (s.locate rm) a b t)) :
    After (Untouched P) s (withRmImm op w rm v s) :=
  readThen_untouched fun _ _ => hop _ _ _

end Operands

theorem multiply_untouched (v : BitVec w.bits) (s : State) : Untouched P s (multiply w v s) := by
  cases w
  · exact .move rfl rfl rfl
  · exact .move rfl rfl rfl

theorem multiplySigned_untouched (v : BitVec w.bits) (s : State) : Untouched P s (multiplySigned w v s) := by
  cases w
  · exact .move rfl rfl rfl
  · exact .move rfl rfl rfl

theorem multiplyImm_untouched (reg : Reg) (rm : RM) (imm : Word) (s : State) :
    After (Untouched P) s (multiplyImm reg rm imm s) :=
  readThen_untouched fun _ _ => after_next (.move rfl rfl rfl)

theorem shiftRm_untouched {rm : RM} (hP : ∀ x, Covers w (s.locate rm) x → P x) (op : ShiftOp) (count : Byte) :
    After (Untouched P) s (shiftRm op w rm count s) :=
  readThen_untouched fun _ t => by
    dsimp only
    split
    · exact after_next (.refl t)
    · exact after_of Untouched.trans (.move rfl rfl rfl) (writeLoc_untouched hP _ _)

/-! ### Moves of data and control -/

theorem popSegment_untouched (q : SegReg) (s : State) : After (Untouched P) s (popSegment q s) :=
  popThen_untouched fun _ _ => after_next (.move rfl rfl rfl)

theorem loadPointer_untouched (q : SegReg) (reg : Reg) (mem : MemRef) (s : State) :
    After (Untouched P) s (loadPointer q reg mem s) :=
  after_seq Untouched.trans (readPointer_untouched _ _ s) fun _ _ => after_next (.move rfl rfl rfl)

/-- A pop from a state that differs from the one before by a move. -/
theorem popAfter_untouched {t : State} {k : Word → State → Out} (h : Untouched P s t)
    (hk : ∀ a u, After (Untouched P) u (k a u)) : After (Untouched P) s (seq (pop t) k) :=
  after_of Untouched.trans h (popThen_untouched hk)

theorem jumpIf_untouched (cond : Bool) (disp : Byte) (s : State) : After (Untouched P) s (jumpIf cond disp s) := by
  refine after_next ?_
  split
  · exact .move rfl rfl rfl
  · exact .refl s

theorem returnFromInterrupt_untouched (s : State) : After (Untouched P) s (returnFromInterrupt s) :=
  popThen_untouched fun _ _ => popThen_untouched fun _ _ => popThen_untouched fun _ _ => after_next (.move rfl rfl rfl)

theorem overrideSegment_untouched (q : SegReg) (s : State) : After (Untouched P) s (overrideSegment q s) := by
  unfold overrideSegment
  split
  · exact after_refused _
  · exact after_next (.setPfx _ id)

theorem execLock_untouched (s : State) : After (Untouched P) s (execLock s) := by
  unfold execLock
  split
  · exact after_refused _
  · exact after_next (.setPfx _ fun _ => rfl)

theorem execRep_untouched (z : Bool) (s : State) : After (Untouched P) s (execRep z s) := by
  unfold execRep
  split
  · exact after_refused _
  · exact after_next (.setPfx _ id)

/-! ### String elements -/

theorem writeDest_untouched {t : State} (hP : ∀ x, Covers w (.mem s.segs.es s.regs.di) x → P x) (h : SameCpu s t)
    (v : BitVec w.bits) : After (Untouched P) t (writeDest w v t) := by
  rw [writeDest, h.segs, h.regs]
  exact writeSeg_untouched hP v t

theorem movsElement_untouched (hP : ∀ x, Covers w (.mem s.segs.es s.regs.di) x → P x) :
    After (Untouched P) s (movsElement w s) :=
  after_seq_with (readSeg_untouched w _ _ s) (busRel_sameCpu.readSeg w _ _ s) fun v _ h =>
    after_andThen Untouched.trans (writeDest_untouched hP h v) fun _ => after_next (.move rfl rfl rfl)

theorem stosElement_untouched (hP : ∀ x, Covers w (.mem s.segs.es s.regs.di) x → P x) :
    After (Untouched P) s (stosElement w s) :=
  after_andThen Untouched.trans (writeDest_untouched hP (SameCpu.refl s) _) fun _ => after_next (.move rfl rfl rfl)

theorem insElement_untouched (hP : ∀ x, Covers w (.mem s.segs.es s.regs.di) x → P x) :
    After (Untouched P) s (insElement w s) :=
  after_seq_with (ioRead_untouched w _ s) (busRel_sameCpu.ioRead w _ s) fun v _ h =>
    after_andThen Untouched.trans (writeDest_untouched hP h v) fun _ => after_next (.move rfl rfl rfl)

theorem cmpsElement_untouched (w : Width) (s : State) : After (Untouched P) s (cmpsElement w s) :=
  after_seq Untouched.trans (readSeg_untouched w _ _ s) fun _ t =>
    after_seq Untouched.trans (readSeg_untouched w _ _ t) fun _ _ => after_next (.move rfl rfl rfl)

theorem scasElement_untouched (w : Width) (s : State) : After (Untouched P) s (scasElement w s) :=
  after_seq Untouched.trans (readSeg_untouched w _ _ s) fun _ _ => after_next (.move rfl rfl rfl)

theorem lodsElement_untouched (w : Width) (s : State) : After (Untouched P) s (lodsElement w s) :=
  after_seq Untouched.trans (readSeg_untouched w _ _ s) fun _ t =>
    after_next (.trans _ _ _ (.setReg t w .ax_al _) (.move rfl rfl rfl))

theorem outsElement_untouched (w : Width) (s : State) : After (Untouched P) s (outsElement w s) :=
  after_seq Untouched.trans (readSeg_untouched w _ _ s) fun v t =>
    after_andThen Untouched.trans (ioWrite_untouched w _ v t) fun _ => after_next (.move rfl rfl rfl)

theorem repeated_untouched (op : StringOp) {element : Width → State → Out}
    (helement : After (Untouched P) s (element w s)) : After (Untouched P) s (repeated op w element s) := by
  unfold repeated
  split
  · exact helement
  · split
    · exact after_next (.move rfl rfl rfl)
    · exact after_andThen Untouched.trans helement fun _ => after_next (.move rfl rfl rfl)

end SharedOperations

/-- An instruction for which `storedBy` says so stores within the place it names, whatever else it does. -/
theorem exec_untouched {s : State} {i : Instr} {p : Option (Width × Loc)} (h : storedBy s i = some p) :
    After (Untouched (Within p)) s (exec i s) := by
  cases i with
  -- data transfer
  | movRmReg _ _ _ | movRmImm _ _ | movRmSreg _ _ => cases h; exact writeLoc_untouched within_self _ s
  | movRegRm w reg rm => exact readThen_untouched fun v t => after_next (.setReg t w reg v)
  | movReg8Imm _ _ | movReg16Imm _ _ => exact after_next (.move rfl rfl rfl)
  | movAccMem w addr =>
    exact after_seq Untouched.trans (readSeg_untouched w _ _ s) fun v t => after_next (.setReg t w _ v)
  | movMemAcc w addr => cases h; exact writeSeg_untouched within_self _ s
  | movSregRm q rm =>
    show After _ s (execMovSregRm q rm s)
    unfold execMovSregRm
    split
    · exact after_refused _
    · exact readThen_untouched fun _ _ => after_next (.move rfl rfl rfl)
  | pushRm rm =>
    cases h
    cases rm with
    | reg r => exact push_untouched within_self _
    | mem m =>
      refine after_seq_with (readLoc_untouched .word _ s) (busRel_sameCpu.readLoc .word _ s) fun v t hcpu => ?_
      exact push_untouched (by rw [hcpu.segs, hcpu.regs]; exact within_self) v
  | pushReg _ | pushEs | pushCs | pushSs | pushDs | pushImm16 _ | pushImm8 _ | pushf =>
    cases h; exact push_untouched within_self _
  | popRm rm =>
    cases h
    refine after_seq_with (pop_untouched s) (pop_locate rm s) fun v t hl => ?_
    exact writeLoc_untouched (w := .word) (l := t.locate rm) (by rw [hl]; exact within_self) v t
  | popReg r => exact popThen_untouched fun _ _ => after_next (.move rfl rfl rfl)
  | popEs | popSs | popDs => exact popSegment_untouched _ s
  | popa =>
    exact popThen_untouched fun _ _ => popAfter_untouched (.move rfl rfl rfl) fun _ _ =>
      popAfter_untouched (.move rfl rfl rfl) fun _ _ => popAfter_untouched (.move rfl rfl rfl) fun _ _ =>
      popThen_untouched fun _ _ => popAfter_untouched (.move rfl rfl rfl) fun _ _ =>
      popAfter_untouched (.move rfl rfl rfl) fun _ _ => popAfter_untouched (.move rfl rfl rfl) fun _ _ =>
      after_next (.move rfl rfl rfl)
  | xchgRmReg w rm reg =>
    cases h
    exact readThen_untouched fun a t =>
      after_andThen Untouched.trans (writeLoc_untouched within_self _ t) fun u => after_next (.setReg u w reg a)
  | xchgAxReg _ | lea _ _ | nop | lahf | sahf => exact after_next (.move rfl rfl rfl)
  | inAccPort w _ | inAccDx w =>
    exact after_seq Untouched.trans (ioRead_untouched w _ s) fun v t => after_next (.setReg t w _ v)
  | outPortAcc w _ | outDxAcc w => exact ioWrite_untouched w _ _ s
  | xlat => exact after_seq Untouched.trans (readSeg_untouched .byte _ _ s) fun _ _ => after_next (.move rfl rfl rfl)
  | lds reg mem | les reg mem => exact loadPointer_untouched _ reg mem s
  | popf => exact popThen_untouched fun _ _ => after_next (.move rfl rfl rfl)
  -- arithmetic
  | addRmReg _ _ _ _ => cases h; exact withRmReg_untouched (opAdd_storesAt _ _ _ within_self)
  | adcRmReg _ _ _ _ => cases h; exact withRmReg_untouched (opAdc_storesAt _ _ _ within_self)
  | subRmReg _ _ _ _ => cases h; exact withRmReg_untouched (opSub_storesAt _ _ _ within_self)
  | sbbRmReg _ _ _ _ => cases h; exact withRmReg_untouched (opSbb_storesAt _ _ _ within_self)
  | cmpRmReg _ _ _ _ => exact withRmReg_untouched (opCmp_storesNowhere _ _ _)
  | addRmImm _ _ | addRm8Imm8 _ _ | addRm16Imm8 _ _ =>
    cases h; exact withRmImm_untouched (opAdd_storesAt _ _ _ within_self)
  | adcRmImm _ _ | adcRm8Imm8 _ _ | adcRm16Imm8 _ _ =>
    cases h; exact withRmImm_untouched (opAdc_storesAt _ _ _ within_self)
  | subRmImm _ _ | subRm8Imm8 _ _ | subRm16Imm8 _ _ =>
    cases h; exact withRmImm_untouched (opSub_storesAt _ _ _ within_self)
  | sbbRmImm _ _ | sbbRm8Imm8 _ _ | sbbRm16Imm8 _ _ =>
    cases h; exact withRmImm_untouched (opSbb_storesAt _ _ _ within_self)
  | cmpRmImm _ _ | cmpRm8Imm8 _ _ | cmpRm16Imm8 _ _ => exact withRmImm_untouched (opCmp_storesNowhere _ _ _)
  | addAccImm _ => cases h; exact opAdd_storesAt _ _ _ within_self _ _ s
  | adcAccImm _ => cases h; exact opAdc_storesAt _ _ _ within_self _ _ s
  | subAccImm _ => cases h; exact opSub_storesAt _ _ _ within_self _ _ s
  | sbbAccImm _ => cases h; exact opSbb_storesAt _ _ _ within_self _ _ s
  | cmpAccImm _ => exact opCmp_storesNowhere _ _ (.reg .ax_al) _ _ s
  | incRm _ _ | incReg _ => cases h; exact increment_untouched within_self s
  | decRm _ _ | decReg _ => cases h; exact decrement_untouched within_self s
  | negRm _ _ => cases h; exact readThen_untouched fun _ t => subTo_untouched within_self _ _ _ t
  | mulRm _ _ => exact readThen_untouched fun v t => after_next (multiply_untouched v t)
  | imulRm _ _ => exact readThen_untouched fun v t => after_next (multiplySigned_untouched v t)
  | imulRegRmImm16 reg rm _ | imulRegRmImm8 reg rm _ => exact multiplyImm_untouched reg rm _ s
  | aaa | aas | daa | das | aam | aad | cbw | cwd => exact after_next (.move rfl rfl rfl)
  -- logic and shifts
  | andRmReg _ _ _ _ => cases h; exact withRmReg_untouched (opAnd_storesAt _ _ _ within_self)
  | orRmReg _ _ _ _ => cases h; exact withRmReg_untouched (opOr_storesAt _ _ _ within_self)
  | xorRmReg _ _ _ _ => cases h; exact withRmReg_untouched (opXor_storesAt _ _ _ within_self)
  | andRmImm _ _ => cases h; exact withRmImm_untouched (opAnd_storesAt _ _ _ within_self)
  | orRmImm _ _ => cases h; exact withRmImm_untouched (opOr_storesAt _ _ _ within_self)
  | xorRmImm _ _ => cases h; exact withRmImm_untouched (opXor_storesAt _ _ _ within_self)
  | andAccImm _ => cases h; exact opAnd_storesAt _ _ _ within_self _ _ s
  | orAccImm _ => cases h; exact opOr_storesAt _ _ _ within_self _ _ s
  | xorAccImm _ => cases h; exact opXor_storesAt _ _ _ within_self _ _ s
  | testAccImm _ => exact opTest_storesNowhere _ _ (.reg .ax_al) _ _ s
  | testRmReg w rm reg => exact withRmReg_untouched (d := .toRm) (opTest_storesNowhere _ _ _)
  | testRmImm _ _ => exact withRmImm_untouched (opTest_storesNowhere _ _ _)
  | notRm _ _ => cases h; exact readThen_untouched fun _ t => writeLoc_untouched within_self _ t
  | rolRm1 w rm | rolRmCl w rm | rolRmImm w rm _ | rorRm1 w rm | rorRmCl w rm | rorRmImm w rm _
  | rclRm1 w rm | rclRmCl w rm | rclRmImm w rm _ | rcrRm1 w rm | rcrRmCl w rm | rcrRmImm w rm _
  | shlRm1 w rm | shlRmCl w rm | shlRmImm w rm _ | shrRm1 w rm | shrRmCl w rm | shrRmImm w rm _
  | sarRm1 w rm | sarRmCl w rm | sarRmImm w rm _ => cases h; exact shiftRm_untouched within_self _ _
  -- strings
  | movs w => cases h; exact repeated_untouched .movs (movsElement_untouched within_self)
  | stos w => cases h; exact repeated_untouched .stos (stosElement_untouched within_self)
  | ins w => cases h; exact repeated_untouched .ins (insElement_untouched within_self)
  | cmps w => exact repeated_untouched .cmps (cmpsElement_untouched w s)
  | scas w => exact repeated_untouched .scas (scasElement_untouched w s)
  | lods w => exact repeated_untouched .lods (lodsElement_untouched w s)
  | outs w => exact repeated_untouched .outs (outsElement_untouched w s)
  -- control transfer
  | callNear d =>
    cases h
    exact after_andThen Untouched.trans (push_untouched within_self _) fun _ => after_next (.move rfl rfl rfl)
  | callNearRm rm =>
    cases h
    refine after_seq_with (readLoc_untouched .word _ s) (busRel_sameCpu.readLoc .word _ s) fun v t hcpu => ?_
    have hpush : After (Untouched _) t (push t.ip t) :=
      push_untouched (by rw [hcpu.segs, hcpu.regs]; exact within_self) _
    exact after_andThen Untouched.trans hpush fun _ => after_next (.move rfl rfl rfl)
  | jmpShort _ | jmpNear _ | jmpFar _ _ => exact after_next (.move rfl rfl rfl)
  | jmpNearRm _ => exact readThen_untouched fun _ _ => after_next (.move rfl rfl rfl)
  | jmpFarMem _ =>
    exact after_seq Untouched.trans (readPointer_untouched _ _ s) fun _ _ => after_next (.move rfl rfl rfl)
  | retNear | retNearImm _ => exact popThen_untouched fun _ _ => after_next (.move rfl rfl rfl)
  | retFar | retFarImm _ =>
    exact popThen_untouched fun _ _ => popThen_untouched fun _ _ => after_next (.move rfl rfl rfl)
  | jo d | jno d | jb d | jnb d | je d | jne d | jbe d | jnbe d | js d | jns d | jp d | jnp d | jl d | jnl d | jle d
  | jnle d | jcxz d => exact jumpIf_untouched _ d s
  | loop d | loopz d | loopnz d => exact after_of Untouched.trans (.move rfl rfl rfl) (jumpIf_untouched _ d s.countDown)
  | iret => exact returnFromInterrupt_untouched s
  | leave => exact popAfter_untouched (.move rfl rfl rfl) fun _ _ => after_next (.move rfl rfl rfl)
  -- processor control
  | clc | stc | cmc | cld | std | cli | sti | hlt | wait => exact after_next (.move rfl rfl rfl)
  | segEs | segCs | segSs | segDs => exact overrideSegment_untouched _ s
  | lock => exact execLock_untouched s
  | rep z => exact execRep_untouched z s
  -- several words, or an exception
  | pusha | callFar _ _ | callFarMem _ | enter _ _ | divRm _ _ | idivRm _ _ | bound _ _ | intType _ | int3 | into
  | esc _ _ _ => cases h

/-- Settles O44, from what an instruction leaves of memory outside the place it stores to. -/
theorem onlyTheStoredPlaceChanges : Obligations.OnlyTheStoredPlaceChanges := by
  intro s t i p hu hp ht a ha
  obtain ⟨-, hmem⟩ := exec_untouched hp t (.inl ⟨t, ht, rfl⟩) hu
  exact hmem a fun ⟨w, l, hpl, hcovers⟩ => ha w l hpl hcovers

end Sys2Proof.Proofs
end
